-- ==== Sys2Proof/Word.lean ====
section
/-! DEFINITION. The word types of the part, its index types, and reading and writing one place of a
fixed number of like things. -/

namespace Sys2Proof

/-- A 16-bit word of an order frame or of a record (00_scope.md, convention 4). -/
abbrev Word := BitVec 16

/-- A 32-bit number: a tally or a cycle count (00_scope.md, convention 6). -/
abbrev Count := BitVec 32

/-- A stretch of 48 trunk bits, the first to arrive being the most significant (R3: a sync pattern has
at most 48 bits). -/
abbrev Window := BitVec 48

/-- Trunks T0 to T3. -/
abbrev Trunk := Fin 4

/-- Source rows 0 to 3 of one trunk (R21). -/
abbrev RowIx := Fin 4

/-- Format slots F0 to F7 (R39). -/
abbrev Slot := Fin 8

/-- Record links L0 and L1 (chapter 7). -/
abbrev Link := Fin 2

/-- The thing in place `i`. -/
def pick {α : Type} {n : Nat} (v : Vector α n) (i : Fin n) : α := v[i.val]'i.isLt

/-- The same things with `x` in place `i`. -/
def put {α : Type} {n : Nat} (v : Vector α n) (i : Fin n) (x : α) : Vector α n := v.set i.val x i.isLt

@[simp] theorem pick_put_same {α : Type} {n : Nat} (v : Vector α n) (i : Fin n) (x : α) :
    pick (put v i x) i = x := by
  simp [pick, put]

theorem pick_put {α : Type} {n : Nat} (v : Vector α n) (i j : Fin n) (x : α) :
    pick (put v i x) j = if i = j then x else pick v j := by
  simp only [pick, put, Vector.getElem_set, Fin.ext_iff]

@[simp] theorem pick_put_ne {α : Type} {n : Nat} (v : Vector α n) {i j : Fin n} (x : α) (h : i ≠ j) :
    pick (put v i x) j = pick v j := by
  simp [pick_put, h]

@[simp] theorem put_put_same {α : Type} {n : Nat} (v : Vector α n) (i : Fin n) (x y : α) :
    put (put v i x) i y = put v i y := by
  simp [put]

@[simp] theorem put_pick_self {α : Type} {n : Nat} (v : Vector α n) (i : Fin n) :
    put v i (pick v i) = v := by
  simp [put, pick]

@[simp] theorem pick_replicate {α : Type} {n : Nat} (x : α) (i : Fin n) :
    pick (Vector.replicate n x) i = x := by
  simp [pick]

/-- Two rows of things are the same when every place holds the same. -/
theorem pick_ext {α : Type} {n : Nat} {v w : Vector α n} (h : ∀ i, pick v i = pick w i) : v = w := by
  apply Vector.ext
  intro i hi
  exact h ⟨i, hi⟩

end Sys2Proof
end

