-- ==== Sys2Proof/Syntax.lean ====
section
/-! DEFINITION. The commands of the part: one constructor for each row of spec/opcode_table.json, with
what the event brings with it from outside. An order's own words are not operands of the row named
after the order: they came with ORDER_FRAME_RECEIVED and stand in the state (log 2). An operand with a
default may be left out: no other trunk's order frame, every record of a reply, every step of an order, no bit
of a trunk beyond those that earlier commands brought. -/

namespace Sys2Proof

/-- The words of an order frame after its marker: header word, control word, body, check word (R176). -/
structure OrderFrame where
  header  : Word
  control : Word
  body    : List Word
  check   : Word
  deriving DecidableEq, Repr

/-- The rows of the table of operations and events. -/
inductive Instr where
  /-- RESETB is released; the operands are the levels of LRDY0 and LRDY1 at the release (R117). -/
  | powerOnReset (ready0 ready1 : Bool)
  /-- A candidate sync start at bit `start` of the trunk, with the 48 bits that end with the candidate's last
  bit: the L lowest are the candidate, and the 32 lowest what the marker detector has then (R3, R6, R12). -/
  | syncCandidateMatch (t : Trunk) (start : Nat) (bits : Window)
  /-- The comparison at the trunk's expected boundary, with the 48 bits that begin there (R4). -/
  | expectedBoundaryComparison (t : Trunk) (bits : Window)
  /-- A candidate marker start at bit `start` of the trunk, with the 32 bits that begin there (R12). -/
  | orderMarkerMatch (t : Trunk) (start : Nat) (bits : BitVec 32)
  /-- The last bit of the order frame in reception on trunk `t`, with the words after the marker (R13, R14), and
  the order frames of the other trunks that complete at the same time, each at its trunk's place; the place
  of `t` itself is not read (R147). -/
  | orderFrameReceived (t : Trunk) (header control : Word) (body : List Word) (check : Word)
      (others : Vector (Option OrderFrame) 4 := Vector.replicate 4 none)
  /-- The last bit of the minor frame in collection, with the words of the frame (R10). -/
  | minorFrameDelivered (t : Trunk) (words : List Word)
  /-- The tracker takes the first frame that waited during RESTART (R175). -/
  | waitingFrameProcessed (t : Trunk)
  /-- The far-end ready line goes active (R117). -/
  | linkUp (l : Link)
  /-- The far-end ready line goes inactive (R118). -/
  | linkDown (l : Link)
  /-- One pulse on the returned-credit channel (R119). -/
  | creditReturn (l : Link)
  /-- The running stall timer of the link reaches 0 (R121). -/
  | stallTimerExpiry (l : Link)
  /-- The last word of the record in transmission has been sent (R129). -/
  | recordSent (l : Link)
  /-- The waiting engine takes the room notice given to it and, with the held record placed or discarded,
  places up to `records` of the records after it (R152, R153; log 26). -/
  | roomNotice (records : Nat := 63)
  /-- The engine carries out an order whose code names no order (R150). -/
  | unknownOrder
  /-- The engine carries out ECHO, code 00H (R159). -/
  | echo
  /-- The engine carries out the next `steps` steps of SET_TRUNK, code 01H: the switch control's part for each
  format concerned, then the reinitialization, when the trunk has `arrived` bits behind it, so that the next
  bit to arrive has that number (R160, R161, R71, R19; log 3). Frames that fall between the steps (R97) are
  commands between two of these (log 25). -/
  | setTrunk (arrived : Nat := 0) (steps : Nat := 5)
  /-- The engine carries out BIND_SOURCE, code 02H (R162). -/
  | bindSource
  /-- The engine carries out the next `steps` steps of UNBIND_SOURCE, code 03H: the switch control's part, then
  the unbinding (R163, R71). Frames that fall between the two (R97) are commands between two of these
  (log 25). -/
  | unbindSource (steps : Nat := 2)
  /-- The engine carries out STAGE_HEADER, code 10H (R53). -/
  | stageHeader
  /-- The engine carries out STAGE_SLOTS, code 11H (R54). -/
  | stageSlots
  /-- The engine carries out STAGE_PARAMS, code 12H (R55). -/
  | stageParams
  /-- The engine carries out DISCARD_STAGE, code 13H (R58). -/
  | discardStage
  /-- The engine carries out COMMIT, code 14H (R63 to R67). -/
  | commit
  /-- The engine carries out CANCEL_COMMIT, code 15H (R68). -/
  | cancelCommit
  /-- The engine carries out TUNE_PARAM, code 20H (R80, R165). -/
  | tuneParam
  /-- The engine carries out READ_PARAM, code 21H (R166). -/
  | readParam
  /-- The engine carries out READ_BANK, code 22H, and places up to `records` of its reply records; or it
  places up to `records` more of those that are left (R152, R167; log 26). -/
  | readBank (records : Nat := 64)
  /-- The engine carries out READ_STATUS, code 23H, and places up to `records` of its reply records; or it
  places up to `records` more of those that are left (R152, R169, R170; log 26). -/
  | readStatus (records : Nat := 5)
  /-- The engine carries out CLEAR_COUNTERS, code 24H (R171). -/
  | clearCounters
  /-- The engine carries out SET_ORDER_ACCEPT, code 30H (R172). -/
  | setOrderAccept
  /-- The engine carries out SET_EVENTS, code 31H (R173). -/
  | setEvents
  /-- The engine carries out the next `steps` steps of RESTART, code 3FH (R174; the ten steps are those
  of `RestartStep`); trunk t has `arrived` t bits behind it meanwhile (R19; log 3). The events that reach the
  part while RESTART is executed (R175) are the commands between two of these (log 5). -/
  | restart (steps : Nat) (arrived : Vector Nat 4 := Vector.replicate 4 0)
  deriving DecidableEq, Repr

end Sys2Proof
end

