-- ==== Sys2Proof/Decode.lean ====
section
/-! DEFINITION. Reading a command from a word by the bits of spec/opcode_table.json. The part is a block:
no row of the table gives bits ("fields" is empty in every row), so no word spells a command. The words
that do reach the part, those of order frames, are read in Sys2Proof/Machine/Operands.lean. -/

namespace Sys2Proof

/-- The command that a word of `nbits` bits spells by the table's bits: none, since no row gives bits. -/
def decodeTableWord (_nbits _w : Nat) : Option Instr := none

/-- The body count of an order frame, bits 7 to 0 of its control word (R13, R176). -/
def bodyCountOf (control : Word) : Nat := (control.extractLsb' 0 8).toNat

/-- The order frames that an ORDER_FRAME_RECEIVED brings, each at its trunk's place (R147). -/
def completedFrames (t : Trunk) (header control : Word) (body : List Word) (check : Word)
    (others : Vector (Option OrderFrame) 4) : Vector (Option OrderFrame) 4 :=
  put others t (some { header := header, control := control, body := body, check := check })

end Sys2Proof
end

