-- ==== Sys2Proof/Config.lean ====
section
/-! DEFINITION. What the part fixes once (00_scope.md, Principal Quantities), and the free values: words
and choices that the manual leaves open, constants with no body applied to the counter `draws` of the
state. -/

namespace Sys2Proof.Config

/-- Slot entries in the table pool (R48). -/
def poolSlots : Nat := 4096

/-- Parameter definitions in the table pool (R48). -/
def poolParams : Nat := 1024

/-- Records a control lane holds at most (R116). -/
def controlLane : Nat := 32

/-- Records a sample lane holds at most (R116). -/
def sampleLane : Nat := 512

/-- Sample-lane occupancy at which the overrun report is armed again (R125). -/
def overrunRearm : Nat := 256

/-- The highest credit count (R119). -/
def maxCredits : Nat := 63

/-- Control records started in a row while samples wait (R128). -/
def maxBurst : Nat := 8

/-- Stall time of both links after power-on reset, in units of 4 ms (R120). -/
def powerOnStallTime : Nat := 250

/-- Order frames the order queue holds at most (R143). -/
def queueRoom : Nat := 8

/-- Delivered frames that wait at most at one tracker during RESTART (R175). -/
def waitingRoom : Nat := 4

/-- The order marker, 0E4B7H followed by 01D29H (R12). -/
def orderMarker : BitVec 32 := 0xE4B71D29#32

/-- Part code returned by ECHO and by READ_STATUS with part scope (R159, R169). -/
def partCode : Word := 0x0046#16

/-- Revision number of the part this manual describes (R159). -/
def revision : Word := 0x0001#16

/-- Slot entries in one READ_BANK record (R167). -/
def slotsPerRecord : Nat := 18

/-- Parameter definitions in one READ_BANK record (R167). -/
def paramsPerRecord : Nat := 4

/-- Free value: the detail word of the reply UNKNOWN_ORDER, which R150 does not state (log 10). -/
opaque unknownOrderDetail : Nat → Word

/-- Free value: the word for the index of the first entry in a READ_BANK record that carries no entry
(R167; log 11). -/
opaque emptyReadIndex : Nat → Word

/-- Free value: the tag-value word that READ_STATUS reports for an occupied row with no tag value
(R170; log 12). -/
opaque absentTagWord : Nat → RowIx → Word

/-- Free value: the code word that READ_STATUS reports for an empty reply-memory row (R170; log 13). -/
opaque emptyMemoryCode : Nat → Word

/-- Free value: the status word that READ_STATUS reports for an empty reply-memory row (R170; log 13). -/
opaque emptyMemoryStatus : Nat → Word

/-- Free value: the remaining-count word that READ_STATUS reports when no probation is present
(R170; log 14). -/
opaque absentProbationWord : Nat → Word

/-- Free value: whether the stall timer of L0 is the first to expire when those of both links run out in
the same unit of time (R121; log 8). -/
opaque linkZeroExpiresFirst : Nat → Bool

end Sys2Proof.Config
end

