-- ==== Sys2Proof/Machine/State.lean ====
section
/-! DEFINITION. Every piece of state the manual gives the part, as plain data, and the state right after
power-on reset (INVENTORY.md lists each piece with its rule). -/

namespace Sys2Proof.Machine

/-! ### Trunk receivers (chapter 1) -/

/-- The trunk profile (R1). `pattern` holds the L = S × W pattern bits right-aligned. -/
structure Profile where
  enable    : Bool
  width     : Nat
  words     : Nat
  syncWords : Nat
  pattern   : Window
  tolerance : Nat
  verify    : Nat
  flywheel  : Nat
  tagPos    : Nat
  deriving DecidableEq, Repr

/-- Frame synchronizer states (section 1.2.2). -/
inductive SyncState where
  | off | search | verify | locked | flywheel
  deriving DecidableEq, Repr

/-- The eight counters of a trunk receiver, in the order of R15's table. -/
structure TrunkCounters where
  delivered  : Count
  flywheel   : Count
  syncLosses : Count
  unmatched  : Count
  taken      : Count
  rejected   : Count
  refused    : Count
  shed       : Count
  deriving DecidableEq, Repr

/-- A minor frame in collection that will be delivered at its last bit (R10). -/
structure Collection where
  start : Nat
  mark  : Bool
  deriving DecidableEq, Repr

/-- One trunk receiver. Bit numbers count the bits of the trunk from the first one after release (R3);
`arrived` is how many of them the commands so far have told of (log 3). -/
structure Receiver where
  profile  : Profile
  sync     : SyncState
  hits     : Nat
  misses   : Nat
  arrived  : Nat
  resume   : Nat
  boundary : Option Nat
  frame    : Option Collection
  order    : Option Nat
  counters : TrunkCounters
  deriving DecidableEq, Repr

/-! ### Source trackers (chapter 2) -/

/-- Cycle states of a source row (R21). -/
inductive CycleState where
  | unformatted | search | check | locked
  deriving DecidableEq, Repr

/-- An occupied source row (R21). -/
structure Row where
  tag        : Option Nat
  format     : Slot
  cycle      : CycleState
  expected   : Nat
  check      : Nat
  miss       : Nat
  current    : Nat
  cycleCount : Count
  losses     : Count
  mismatches : Count
  broken     : Count
  deriving DecidableEq, Repr

/-- What waits at a tracker while RESTART holds it: a delivered frame, or the delivery-ended signal that
followed such frames (R175, R34; log 6). -/
inductive Waiting where
  | frame (words : List Word) (mark : Bool)
  | deliveryEnded
  deriving DecidableEq, Repr

/-- One source tracker; a vacant row is `none`. -/
structure Tracker where
  rows    : Vector (Option Row) 4
  waiting : List Waiting
  deriving DecidableEq, Repr

/-! ### Format store and switch control (chapters 3 and 4) -/

/-- Bank letters (R39). -/
inductive BankId where
  | a | b
  deriving DecidableEq, Repr

/-- The header of a bank (R42). -/
structure Header where
  length    : Nat
  idPos     : Nat
  idBase    : Nat
  verify    : Nat
  missLimit : Nat
  probation : Nat
  deriving DecidableEq, Repr

/-- A slot entry (R43). -/
structure SlotEntry where
  pos      : Nat
  interval : Nat
  offset   : Nat
  param    : Nat
  piece    : Nat
  deriving DecidableEq, Repr

/-- Emission modes with their arguments (R46). -/
inductive Emission where
  | every
  | nth (n : Nat)
  | change (deadband : Nat)
  deriving DecidableEq, Repr

/-- The limits part of a definition (R46). -/
structure Limits where
  lo          : Int
  hi          : Int
  persistence : Nat
  deriving DecidableEq, Repr

/-- A parameter definition (R46). -/
structure ParamDef where
  number   : Nat
  pieces   : Nat
  signed   : Bool
  link     : Link
  emission : Emission
  limits   : Option Limits
  deriving DecidableEq, Repr

/-- The content of a bank: header, slot map, parameter list (section 3.2). -/
structure Bank where
  header : Option Header
  slots  : List SlotEntry
  params : List ParamDef
  deriving DecidableEq, Repr

/-- Standby states (R41). -/
inductive Standby where
  | empty | staging | armed | fallback
  deriving DecidableEq, Repr

/-- One format slot: its two banks and the three items of the switch control (R62). -/
structure FormatSlot where
  active    : BankId
  bankA     : Bank
  bankB     : Bank
  standby   : Standby
  probation : Option Nat
  deriving DecidableEq, Repr

/-- Causes of a switch (R70). -/
inductive SwitchCause where
  | commit | immediate | unlock | unbind | order | revert
  deriving DecidableEq, Repr

/-! ### Assembly unit (chapter 5) -/

/-- A PARTIAL assembly context (R87): the pieces present by index, and what the first piece carried. -/
structure Partial where
  pieces     : Vector (Option Nat) 4
  width      : Nat
  cycleCount : Count
  trunk      : Trunk
  row        : RowIx
  format     : Slot
  mark       : Bool
  deriving DecidableEq, Repr

/-- The assembly context of one parameter; `none` is EMPTY (R87). -/
structure Context where
  number : Nat
  held   : Option Partial
  deriving DecidableEq, Repr

/-! ### Evaluation unit (chapter 6) -/

/-- The classes of a sample and the limit states (R99, R102). -/
inductive LimitClass where
  | inside | low | high
  deriving DecidableEq, Repr

/-- The latest value of a parameter (R99, R101). -/
structure Latest where
  value      : Int
  width      : Nat
  cycleCount : Count
  frame      : Nat
  mark       : Bool
  deriving DecidableEq, Repr

/-- The runtime of one parameter (R99). -/
structure Runtime where
  latest    : Option Latest
  samples   : Count
  limit     : LimitClass
  candidate : Option LimitClass
  run       : Nat
  nth       : Nat
  emitted   : Option Int
  deriving DecidableEq, Repr

/-- A parameter number with its runtime. -/
structure RuntimeEntry where
  number  : Nat
  runtime : Runtime
  deriving DecidableEq, Repr

/-! ### Link transmitters (chapter 7) -/

/-- A record: its 16-bit words, header first (chapter 11). -/
abbrev Record := List Word

/-- Link states (R116). -/
inductive LinkState where
  | down | up | stalled
  deriving DecidableEq, Repr

/-- The two lanes of a link (R116). -/
inductive Lane where
  | control | sample
  deriving DecidableEq, Repr

/-- The six counters of a link, in the order of R130's table. -/
structure LinkCounters where
  sampleSent     : Count
  controlSent    : Count
  dropped        : Count
  sampleFlushed  : Count
  controlFlushed : Count
  stalls         : Count
  deriving DecidableEq, Repr

/-- One link transmitter (R116). The record in transmission is the head of the lane `sending` names;
`timer` is the remaining time in units of 4 ms, or `none` when idle; `ready` is the level of LRDY. -/
structure LinkTx where
  state        : LinkState
  ready        : Bool
  credits      : Nat
  control      : List Record
  sample       : List Record
  sending      : Option Lane
  burst        : Nat
  overrunArmed : Bool
  stallTime    : Nat
  timer        : Option Nat
  counters     : LinkCounters
  deriving DecidableEq, Repr

/-! ### Event unit (chapter 8) -/

/-- The nine event kinds (Table 8-2). -/
inductive EventKind where
  | trunkSync | cycleSync | limit | bankSwitch | probationPassed | laneOverrun | linkStalled
  | ordersShed | orderRefused
  deriving DecidableEq, Repr

/-- The event unit (R133). Bit n of `enabled` stands for the kind of code n + 1; bit n of `refusalArmed`
for trunk Tn. -/
structure EventUnit where
  link         : Link
  enabled      : BitVec 9
  shedArmed    : Bool
  refusalArmed : BitVec 4
  lost         : Count
  deriving DecidableEq, Repr

/-! ### Order unit (chapter 9) -/

/-- A queued order (R143). -/
structure QueuedOrder where
  trunk   : Trunk
  header  : Word
  control : Word
  body    : List Word
  deriving DecidableEq, Repr

/-- The steps of RESTART in the order of R174: (1) switch control; (2) each trunk in turn; (3) evaluation
unit; (4) LK0, then LK1 with the events-lost counter; (5) rows; (6) reply. -/
inductive RestartStep where
  | switchControl
  | trunk (t : Trunk)
  | evaluation
  | link (l : Link)
  | rows
  | reply
  deriving DecidableEq, Repr

/-- The order engine (R143): IDLE, or EXECUTING with the order in execution. While it is executing, the
order may be one not yet carried out, a SET_TRUNK or UNBIND_SOURCE for which the switch control has the formats
`left` still to handle, and after them its last effect (R71, R97; log 25), a RESTART with steps left (R174), one
carried out with the reply
records `next` and `rest` still to be placed (R152; log 26), or one whose reply record `held` waits for
room, with the records after it (R153). -/
inductive Engine where
  | idle
  | executing (o : QueuedOrder)
  | settling (o : QueuedOrder) (left : List Slot)
  | restarting (o : QueuedOrder) (left : List RestartStep)
  | placing (o : QueuedOrder) (next : Record) (rest : List Record)
  | replying (o : QueuedOrder) (held : Record) (rest : List Record)
  deriving DecidableEq, Repr

/-- The two room notices of a link (R126). -/
inductive RoomNotice where
  | departed | leftUp
  deriving DecidableEq, Repr

/-- One reply-memory row that is not empty (R143). -/
structure MemoryRow where
  tag    : Nat
  code   : Nat
  record : Record
  deriving DecidableEq, Repr

/-- The order unit (R143), with the room notice the engine has been given and has not yet taken. Bit n
of `accept` stands for trunk Tn. -/
structure OrderUnit where
  accept : BitVec 4
  queue  : List QueuedOrder
  engine : Engine
  notice : Option RoomNotice
  memory : Vector (Option MemoryRow) 4
  deriving DecidableEq, Repr

/-! ### The part -/

/-- The whole part, with the commands that wait (`pending`, first in first out) and the counter `draws`
that the free values of Config are applied to (log 20). -/
structure State where
  receivers  : Vector Receiver 4
  trackers   : Vector Tracker 4
  formats    : Vector FormatSlot 8
  freeSlots  : Nat
  freeParams : Nat
  contexts   : Vector (List Context) 8
  runtimes   : Vector (List RuntimeEntry) 8
  links      : Vector LinkTx 2
  events     : EventUnit
  orders     : OrderUnit
  draws      : Nat
  pending    : List Instr
  deriving DecidableEq, Repr

/-- The manual names no condition that stops the part: an order that fails is answered with a status
(Table 10-3), a frame or an event that fails is counted. So no fault exists. -/
inductive Fault where
  deriving DecidableEq, Repr

/-- Why a command can have no meaning. -/
inductive Refusal where
  /-- Raised by `exec` alone, for a row of the table that has no meaning yet (safe). No arm raises it. -/
  | notModelled (mnemonic : String)
  deriving DecidableEq, Repr

/-! ### Power-on values -/

/-- Power-on profile: Enable = no, all other settings 0 (R1). -/
def Profile.powerOn : Profile :=
  { enable := false, width := 0, words := 0, syncWords := 0, pattern := 0, tolerance := 0, verify := 0,
    flywheel := 0, tagPos := 0 }

/-- All eight trunk counters at 0 (R18). -/
def TrunkCounters.zero : TrunkCounters :=
  { delivered := 0, flywheel := 0, syncLosses := 0, unmatched := 0, taken := 0, rejected := 0, refused := 0,
    shed := 0 }

/-- A trunk receiver after power-on reset (R18). -/
def Receiver.powerOn : Receiver :=
  { profile := Profile.powerOn, sync := .off, hits := 0, misses := 0, arrived := 0, resume := 0,
    boundary := none, frame := none, order := none, counters := TrunkCounters.zero }

/-- A source tracker after power-on reset: every row vacant, no frame waiting (R38, R175). -/
def Tracker.powerOn : Tracker := { rows := Vector.replicate 4 none, waiting := [] }

/-- An EMPTY bank (R61). -/
def Bank.empty : Bank := { header := none, slots := [], params := [] }

/-- A format slot after power-on reset: bank A active, everything EMPTY (R61). -/
def FormatSlot.powerOn : FormatSlot :=
  { active := .a, bankA := Bank.empty, bankB := Bank.empty, standby := .empty, probation := none }

/-- All six link counters at 0 (R131). -/
def LinkCounters.zero : LinkCounters :=
  { sampleSent := 0, controlSent := 0, dropped := 0, sampleFlushed := 0, controlFlushed := 0, stalls := 0 }

/-- A link transmitter after power-on reset (R131) whose ready line is inactive (log 19). -/
def LinkTx.powerOn : LinkTx :=
  { state := .down, ready := false, credits := 0, control := [], sample := [], sending := none, burst := 0,
    overrunArmed := true, stallTime := Config.powerOnStallTime, timer := none, counters := LinkCounters.zero }

/-- The event unit after power-on reset (R133). -/
def EventUnit.powerOn : EventUnit :=
  { link := 0, enabled := 0x1FF#9, shedArmed := true, refusalArmed := 0xF#4, lost := 0 }

/-- The order unit after power-on reset: accept set {T0}, everything else empty (R143). -/
def OrderUnit.powerOn : OrderUnit :=
  { accept := 0x1#4, queue := [], engine := .idle, notice := none, memory := Vector.replicate 4 none }

/-- The part right after power-on reset, with both ready lines inactive (log 19), the free-value counter
at 0 (log 20) and no command waiting. -/
def State.reset : State :=
  { receivers := Vector.replicate 4 Receiver.powerOn
    trackers := Vector.replicate 4 Tracker.powerOn
    formats := Vector.replicate 8 FormatSlot.powerOn
    freeSlots := Config.poolSlots
    freeParams := Config.poolParams
    contexts := Vector.replicate 8 []
    runtimes := Vector.replicate 8 []
    links := Vector.replicate 2 LinkTx.powerOn
    events := EventUnit.powerOn
    orders := OrderUnit.powerOn
    draws := 0
    pending := [] }

end Sys2Proof.Machine
end

