-- ==== Sys2Proof/Machine/Ops.lean ====
section
/-! DEFINITION. Named operations over the parts of the state: tallies, reading and writing one trunk, row,
format slot or link, banks by letter and by role, and the order in which things are visited. -/

namespace Sys2Proof.Machine

/-! ### Tallies -/

/-- A tally after `n` more increments: it stops at 0FFFFFFFFH (R16, R37, R101, R130, R139). -/
def addTally (c : Count) (n : Nat) : Count := BitVec.ofNat 32 (min (c.toNat + n) 0xFFFFFFFF)

/-- A tally after one increment (R16). -/
def bump (c : Count) : Count := addTally c 1

/-- The two words of a tally or cycle count, most significant first (R157, convention 3). -/
def countWords (c : Count) : List Word := [c.extractLsb' 16 16, c.extractLsb' 0 16]

/-- A number as one right-aligned word. -/
def numWord (n : Nat) : Word := BitVec.ofNat 16 n

/-- A yes/no item as a word (R158). -/
def boolWord (b : Bool) : Word := if b then 1 else 0

/-- The number in bits `lo` to `lo + len - 1` of a word (chapter 11). -/
def field (w : Word) (lo len : Nat) : Nat := (w.extractLsb' lo len).toNat

/-- The place of the first item that fails, counted from `i`. -/
def firstFailing {α : Type} (ok : α → Bool) : Nat → List α → Option Nat
  | _, [] => none
  | i, x :: xs => if ok x then firstFailing ok (i + 1) xs else some i

/-! ### Visiting -/

/-- The trunks in order. -/
def trunkList : List Trunk := [0, 1, 2, 3]

/-- The rows of a trunk in order (R34). -/
def rowList : List RowIx := [0, 1, 2, 3]

/-- The format slots in order (R71). -/
def slotList : List Slot := [0, 1, 2, 3, 4, 5, 6, 7]

/-- The trunk of a number, if there is one. -/
def trunkOf (n : Nat) : Option Trunk := if h : n < 4 then some ⟨n, h⟩ else none

/-- The row of a number, if there is one. -/
def rowOf (n : Nat) : Option RowIx := if h : n < 4 then some ⟨n, h⟩ else none

/-- The format slot of a number, if there is one. -/
def slotOf (n : Nat) : Option Slot := if h : n < 8 then some ⟨n, h⟩ else none

/-- The link of a number, if there is one. -/
def linkOf (n : Nat) : Option Link := if h : n < 2 then some ⟨n, h⟩ else none

/-- The other link (R121). -/
def otherLink (l : Link) : Link := if l = 0 then 1 else 0

/-! ### One trunk receiver, tracker, row -/

/-- The receiver of trunk `t`. -/
def State.receiver (s : State) (t : Trunk) : Receiver := pick s.receivers t

/-- The state with another receiver on trunk `t`. -/
def State.setReceiver (s : State) (t : Trunk) (x : Receiver) : State :=
  { s with receivers := put s.receivers t x }

/-- The source tracker of trunk `t`. -/
def State.tracker (s : State) (t : Trunk) : Tracker := pick s.trackers t

/-- The state with another source tracker on trunk `t`. -/
def State.setTracker (s : State) (t : Trunk) (x : Tracker) : State :=
  { s with trackers := put s.trackers t x }

/-- Row `r` of trunk `t`; `none` is vacant. -/
def State.row (s : State) (t : Trunk) (r : RowIx) : Option Row := pick (s.tracker t).rows r

/-- The state with another row `r` on trunk `t`. -/
def State.setRow (s : State) (t : Trunk) (r : RowIx) (x : Option Row) : State :=
  s.setTracker t { s.tracker t with rows := put (s.tracker t).rows r x }

/-- The state with the frames that wait at trunk `t` replaced (R175). -/
def State.setWaiting (s : State) (t : Trunk) (w : List Waiting) : State :=
  s.setTracker t { s.tracker t with waiting := w }

/-- The state with the counters of receiver `t` changed. -/
def State.onCounters (s : State) (t : Trunk) (g : TrunkCounters → TrunkCounters) : State :=
  s.setReceiver t { s.receiver t with counters := g (s.receiver t).counters }

/-- The state with row `r` of trunk `t` changed where it is occupied. -/
def State.onRow (s : State) (t : Trunk) (r : RowIx) (g : Row → Row) : State :=
  match s.row t r with
  | none => s
  | some x => s.setRow t r (some (g x))

/-! ### Banks -/

/-- The other bank letter. -/
def BankId.other : BankId → BankId
  | .a => .b
  | .b => .a

/-- Bank A or bank B of a format slot. -/
def FormatSlot.bank (f : FormatSlot) : BankId → Bank
  | .a => f.bankA
  | .b => f.bankB

/-- The format slot with another content in one of its banks. -/
def FormatSlot.setBank (f : FormatSlot) : BankId → Bank → FormatSlot
  | .a, x => { f with bankA := x }
  | .b, x => { f with bankB := x }

/-- The active bank (R39). -/
def FormatSlot.activeBank (f : FormatSlot) : Bank := f.bank f.active

/-- The standby bank (R39). -/
def FormatSlot.standbyBank (f : FormatSlot) : Bank := f.bank f.active.other

/-- A bank that holds a header is COMMITTED when it is active (R40). -/
def Bank.committed (b : Bank) : Bool := b.header.isSome

/-- The definition of a parameter number in a bank (R47). -/
def Bank.definition? (b : Bank) (n : Nat) : Option ParamDef := b.params.find? (fun d => d.number == n)

/-! ### One format slot and what the assembly and evaluation units hold for it -/

/-- Format slot `f`. -/
def State.format (s : State) (f : Slot) : FormatSlot := pick s.formats f

/-- The state with another format slot `f`. -/
def State.setFormat (s : State) (f : Slot) (x : FormatSlot) : State :=
  { s with formats := put s.formats f x }

/-- The active bank of format slot `f`. -/
def State.activeBank (s : State) (f : Slot) : Bank := (s.format f).activeBank

/-- The assembly contexts of format slot `f` (R87). -/
def State.contextsOf (s : State) (f : Slot) : List Context := pick s.contexts f

/-- The state with other assembly contexts for format slot `f`. -/
def State.setContexts (s : State) (f : Slot) (x : List Context) : State :=
  { s with contexts := put s.contexts f x }

/-- The parameter runtimes of format slot `f` (R99). -/
def State.runtimesOf (s : State) (f : Slot) : List RuntimeEntry := pick s.runtimes f

/-- The state with other parameter runtimes for format slot `f`. -/
def State.setRuntimes (s : State) (f : Slot) (x : List RuntimeEntry) : State :=
  { s with runtimes := put s.runtimes f x }

/-- Whether a row is occupied and bound to format slot `f`. -/
def boundTo (f : Slot) : Option Row → Bool
  | none => false
  | some x => x.format == f

/-- All sixteen rows in order. -/
def allRows : List (Trunk × RowIx) := trunkList.flatMap (fun t => rowList.map (fun r => (t, r)))

/-- The source row that a format slot is bound to, if any (R21: at most one). -/
def State.boundRow (s : State) (f : Slot) : Option (Trunk × RowIx) :=
  allRows.find? (fun p => boundTo f (s.row p.1 p.2))

/-- The cycle count of the row a format slot is bound to, 0 when it is unbound (R72). -/
def State.boundCycleCount (s : State) (f : Slot) : Count :=
  match s.boundRow f with
  | none => 0
  | some (t, r) =>
    match s.row t r with
    | none => 0
    | some x => x.cycleCount

/-! ### One link, the event unit, the order unit -/

/-- Link transmitter `l`. -/
def State.link (s : State) (l : Link) : LinkTx := pick s.links l

/-- The state with another link transmitter `l`. -/
def State.setLink (s : State) (l : Link) (x : LinkTx) : State := { s with links := put s.links l x }

/-- The state with another event unit. -/
def State.setEvents (s : State) (x : EventUnit) : State := { s with events := x }

/-- The state with another order unit. -/
def State.setOrders (s : State) (x : OrderUnit) : State := { s with orders := x }

/-- The state with other free counts of the table pool. -/
def State.setFree (s : State) (slots params : Nat) : State :=
  { s with freeSlots := slots, freeParams := params }

/-- The state with the free-value counter moved on. -/
def State.draw (s : State) : State := { s with draws := s.draws + 1 }

end Sys2Proof.Machine
end

