-- ==== Sys2Proof/Machine/Flags.lean ====
section
/-! DEFINITION. The numbers of states, modes, causes and statuses (Tables 8-2, 10-2 and 10-3), the flags
of a sample record (R110), and the sets held as bits. -/

namespace Sys2Proof.Machine

/-! ### Table 10-2 -/

/-- Frame synchronizer state numbers. -/
def SyncState.number : SyncState → Nat
  | .off => 0
  | .search => 1
  | .verify => 2
  | .locked => 3
  | .flywheel => 4

/-- Cycle state numbers. -/
def CycleState.number : CycleState → Nat
  | .unformatted => 0
  | .search => 1
  | .check => 2
  | .locked => 3

/-- Standby state numbers. -/
def Standby.number : Standby → Nat
  | .empty => 0
  | .staging => 1
  | .armed => 2
  | .fallback => 3

/-- Link state numbers. -/
def LinkState.number : LinkState → Nat
  | .down => 0
  | .up => 1
  | .stalled => 2

/-- Limit state numbers. -/
def LimitClass.number : LimitClass → Nat
  | .inside => 0
  | .low => 1
  | .high => 2

/-- Candidate numbers; none is 3. -/
def candidateNumber : Option LimitClass → Nat
  | none => 3
  | some c => c.number

/-- Emission mode numbers. -/
def Emission.number : Emission → Nat
  | .every => 0
  | .nth _ => 1
  | .change _ => 2

/-- The emission argument as reported; EVERY holds none and reports 0 (R46). -/
def Emission.argument : Emission → Nat
  | .every => 0
  | .nth n => n
  | .change d => d

/-- Switch cause numbers. -/
def SwitchCause.number : SwitchCause → Nat
  | .commit => 0
  | .immediate => 1
  | .unlock => 2
  | .unbind => 3
  | .order => 4
  | .revert => 5

/-- Record in transmission numbers. -/
def sendingNumber : Option Lane → Nat
  | none => 0
  | some .control => 1
  | some .sample => 2

/-- Bank letters as numbers: 0AH and 0BH (R157, convention 2). -/
def BankId.letter : BankId → Nat
  | .a => 0xA
  | .b => 0xB

/-! ### Event codes (Table 8-2) and the enable set -/

/-- The code of an event kind. -/
def EventKind.code : EventKind → Nat
  | .trunkSync => 1
  | .cycleSync => 2
  | .limit => 3
  | .bankSwitch => 4
  | .probationPassed => 5
  | .laneOverrun => 6
  | .linkStalled => 7
  | .ordersShed => 8
  | .orderRefused => 9

/-- Whether a kind is in the enable set (R133, R169). -/
def EventUnit.enables (e : EventUnit) (k : EventKind) : Bool := e.enabled.getLsbD (k.code - 1)

/-- Whether trunk `t` is in a set of trunks. -/
def inTrunks (m : BitVec 4) (t : Trunk) : Bool := m.getLsbD t.val

/-- A set of trunks with `t` put in. -/
def withTrunk (m : BitVec 4) (t : Trunk) : BitVec 4 := m ||| (1#4 <<< t.val)

/-- A set of trunks with `t` taken out. -/
def withoutTrunk (m : BitVec 4) (t : Trunk) : BitVec 4 := m &&& ~~~(1#4 <<< t.val)

/-! ### Reply statuses (Table 10-3) -/

/-- The statuses of reply records. -/
inductive Status where
  | ok | armed | switched | unknownOrder | badLength | badArgument | noSpace | slotConflict
  | paramDuplicate | pending | notStaged | incomplete | positionConflict | paramClash | formatInUse
  | tagInUse | sourceOccupied | sourceVacant | notDefined | wouldIsolate | inUse
  deriving DecidableEq, Repr

/-- The number of a status in the header of a reply record. -/
def Status.number : Status → Nat
  | .ok => 0x00
  | .armed => 0x01
  | .switched => 0x02
  | .unknownOrder => 0x10
  | .badLength => 0x11
  | .badArgument => 0x12
  | .noSpace => 0x20
  | .slotConflict => 0x21
  | .paramDuplicate => 0x22
  | .pending => 0x23
  | .notStaged => 0x24
  | .incomplete => 0x25
  | .positionConflict => 0x26
  | .paramClash => 0x27
  | .formatInUse => 0x30
  | .tagInUse => 0x31
  | .sourceOccupied => 0x32
  | .sourceVacant => 0x33
  | .notDefined => 0x34
  | .wouldIsolate => 0x35
  | .inUse => 0x36

end Sys2Proof.Machine
end

