-- ==== Sys2Proof/Machine/Operands.lean ====
section
/-! DEFINITION. The words of order frames as the part reads them: header and control word, check word,
staged entries in both directions, and range checks of body words (chapters 10 and 11). -/

namespace Sys2Proof.Machine

/-! ### The order frame (R176) -/

/-- The order code, bits 15 to 8 of the header word. -/
def QueuedOrder.code (o : QueuedOrder) : Nat := field o.header 8 8

/-- The tag, bits 7 to 0 of the header word. -/
def QueuedOrder.tag (o : QueuedOrder) : Nat := field o.header 0 8

/-- The link that bit 15 of the control word names. -/
def QueuedOrder.replyLink (o : QueuedOrder) : Link := if o.control.getLsbD 15 then 1 else 0

/-- Whether any of bits 14 to 8 of the control word is 1 (R150). -/
def QueuedOrder.reservedSet (o : QueuedOrder) : Bool := field o.control 8 7 != 0

/-- The body count, bits 7 to 0 of the control word. -/
def QueuedOrder.bodyCount (o : QueuedOrder) : Nat := bodyCountOf o.control

/-- Body word `i`. -/
def QueuedOrder.word (o : QueuedOrder) (i : Nat) : Word := o.body.getD i 0

/-- Body word `i` as a number. -/
def QueuedOrder.arg (o : QueuedOrder) (i : Nat) : Nat := (o.word i).toNat

/-- Whether a number lies in a range, both ends included. -/
def within (n lo hi : Nat) : Bool := lo ≤ n && n ≤ hi

/-! ### The check word (R14, R177) -/

/-- The check register after one data bit. -/
def crcBit (reg : Word) (b : Bool) : Word :=
  if b != reg.getLsbD 15 then (reg <<< 1) ^^^ 0x1021#16 else reg <<< 1

/-- The check register after the sixteen bits of a word, bit 15 first. -/
def crcWord (reg : Word) (w : Word) : Word :=
  [15, 14, 13, 12, 11, 10, 9, 8, 7, 6, 5, 4, 3, 2, 1, 0].foldl (fun r i => crcBit r (w.getLsbD i)) reg

/-- The check value of the header word, the control word and the body words. -/
def crcOf (words : List Word) : Word := words.foldl crcWord 0xFFFF#16

/-! ### Slot entries (Table 11-1) -/

/-- The slot entry of three words, or none where a field is out of its range (R43, R178). -/
def slotEntryOf (w0 w1 w2 : Word) : Option SlotEntry :=
  let e : SlotEntry :=
    { pos := field w0 0 11, interval := field w1 8 8 + 1, offset := field w1 0 8, param := field w2 0 12,
      piece := field w2 14 2 }
  if field w0 11 5 == 0 && within e.pos 1 1024 && decide (e.offset < e.interval) && field w2 12 2 == 0 then
    some e
  else none

/-- The three words of a slot entry. -/
def slotEntryWords (e : SlotEntry) : List Word :=
  [ (0#5 ++ BitVec.ofNat 11 e.pos : BitVec 16),
    (BitVec.ofNat 8 (e.interval - 1) ++ BitVec.ofNat 8 e.offset : BitVec 16),
    (BitVec.ofNat 2 e.piece ++ 0#2 ++ BitVec.ofNat 12 e.param : BitVec 16) ]

/-! ### Parameter definitions (Table 11-2) -/

/-- The fields of a definition that TUNE_PARAM replaces (R80). -/
structure TunedFields where
  link     : Link
  emission : Emission
  limits   : Option Limits
  deriving DecidableEq, Repr

/-- The parameter number of a definition: word 0 bits 11 to 0. -/
def definedNumber (w0 : Word) : Nat := field w0 0 12

/-- lo of words 3 and 4, 24 bits, read signed or unsigned (R46, R178). -/
def loOf (signed : Bool) (w3 w4 : Word) : Int :=
  let b : BitVec 24 := w3 ++ w4.extractLsb' 8 8
  if signed then b.toInt else b.toNat

/-- hi of words 4 and 5, 24 bits, read signed or unsigned (R46, R178). -/
def hiOf (signed : Bool) (w4 w5 : Word) : Int :=
  let b : BitVec 24 := w4.extractLsb' 0 8 ++ w5
  if signed then b.toInt else b.toNat

/-- The emission mode and argument of words 1 and 2, or the number of the field that fails: 0 for the
mode (a set bit 12 to 10 counts with it), 1 for the argument (R55, R165, R178). -/
def emissionOf (w1 w2 : Word) : Except Nat Emission :=
  if field w1 10 3 != 0 then .error 0
  else if field w1 8 2 == 0 then .ok .every
  else if field w1 8 2 == 1 then
    if within w2.toNat 2 255 then .ok (.nth w2.toNat) else .error 1
  else if field w1 8 2 == 2 then .ok (.change w2.toNat)
  else .error 0

/-- The limits part, or the number of the field that fails: 3 for lo greater than hi, 4 for persistence
(R55, R165). No 24-bit lo or hi is out of range by itself. -/
def limitsOf (signed : Bool) (w1 w3 w4 w5 : Word) : Except Nat (Option Limits) :=
  if w1.getLsbD 13 then
    if hiOf signed w4 w5 < loOf signed w3 w4 then .error 3
    else if field w1 0 8 == 0 then .error 4
    else .ok (some { lo := loOf signed w3 w4, hi := hiOf signed w4 w5, persistence := field w1 0 8 })
  else .ok none

/-- The fields that TUNE_PARAM takes from words 1 to 5, or the number of the first field that fails
(R165). -/
def tunedFieldsOf (signed : Bool) (w1 w2 w3 w4 w5 : Word) : Except Nat TunedFields :=
  match emissionOf w1 w2, limitsOf signed w1 w3 w4 w5 with
  | .error n, _ => .error n
  | .ok _, .error n => .error n
  | .ok e, .ok l => .ok { link := if w1.getLsbD 14 then 1 else 0, emission := e, limits := l }

/-- The parameter definition of six words, or none where a field is out of its range (R55, R178). -/
def paramDefOf (w0 w1 w2 w3 w4 w5 : Word) : Option ParamDef :=
  let pieces := field w0 12 4
  let signed := w1.getLsbD 15
  match tunedFieldsOf signed w1 w2 w3 w4 w5 with
  | .error _ => none
  | .ok f =>
    if within pieces 1 4 then
      some { number := definedNumber w0, pieces := pieces, signed := signed, link := f.link,
             emission := f.emission, limits := f.limits }
    else none

/-- The six words of a definition; the words of an absent limits part and of EVERY's argument are 0
(R167). -/
def paramDefWords (d : ParamDef) : List Word :=
  let persistence := match d.limits with | none => 0 | some l => l.persistence
  let lo : BitVec 24 := match d.limits with | none => 0 | some l => BitVec.ofInt 24 l.lo
  let hi : BitVec 24 := match d.limits with | none => 0 | some l => BitVec.ofInt 24 l.hi
  [ (BitVec.ofNat 4 d.pieces ++ BitVec.ofNat 12 d.number : BitVec 16),
    (BitVec.ofBool d.signed ++ BitVec.ofNat 1 d.link.val ++ BitVec.ofBool d.limits.isSome ++ 0#3 ++
      BitVec.ofNat 2 d.emission.number ++ BitVec.ofNat 8 persistence : BitVec 16),
    numWord d.emission.argument,
    lo.extractLsb' 8 16,
    (lo.extractLsb' 0 8 ++ hi.extractLsb' 16 8 : BitVec 16),
    hi.extractLsb' 0 16 ]

/-! ### Headers and lists of entries in an order body -/

/-- The header of words 1 to 6 of STAGE_HEADER (R164). -/
def headerOf (o : QueuedOrder) : Header :=
  { length := o.arg 1, idPos := o.arg 2, idBase := o.arg 3, verify := o.arg 4, missLimit := o.arg 5,
    probation := o.arg 6 }

/-- The number of the first header field out of its range (R42, R53). -/
def headerFailure (h : Header) : Option Nat :=
  firstFailing id 0
    [ within h.length 1 256,
      within h.idPos (if h.length = 1 then 0 else 1) 1024,
      within h.idBase 0 1,
      within h.verify 1 8,
      within h.missLimit 1 8,
      within h.probation 0 15 ]

/-- The six header fields as words (R167). -/
def headerWords (h : Header) : List Word :=
  [numWord h.length, numWord h.idPos, numWord h.idBase, numWord h.verify, numWord h.missLimit,
    numWord h.probation]

/-- The slot entries of a STAGE_SLOTS body after its format word, each read or out of range. -/
def slotItems : List Word → List (Option SlotEntry)
  | w0 :: w1 :: w2 :: rest => slotEntryOf w0 w1 w2 :: slotItems rest
  | _ => []

/-- The definitions of a STAGE_PARAMS body after its format word, each read or out of range. -/
def paramItems : List Word → List (Option ParamDef)
  | w0 :: w1 :: w2 :: w3 :: w4 :: w5 :: rest => paramDefOf w0 w1 w2 w3 w4 w5 :: paramItems rest
  | _ => []

/-! ### Body counts (Table 10-1) -/

/-- Whether a code names an order. -/
def knownCode (code : Nat) : Bool :=
  [0x00, 0x01, 0x02, 0x03, 0x10, 0x11, 0x12, 0x13, 0x14, 0x15, 0x20, 0x21, 0x22, 0x23, 0x24, 0x30, 0x31,
    0x3F].contains code

/-- Whether a known code is read-only (R149, Table 10-1). -/
def readOnlyCode (code : Nat) : Bool := [0x00, 0x21, 0x22, 0x23].contains code

/-- Whether a body count is permitted for a known code (R157). -/
def permittedCount (code count : Nat) : Bool :=
  if code = 0x00 then decide (count ≤ 55)
  else if code = 0x01 then count == 12
  else if code = 0x02 then count == 4
  else if code = 0x03 then count == 2
  else if code = 0x10 then count == 7
  else if code = 0x11 then count % 3 == 1 && decide (count ≤ 181)
  else if code = 0x12 then count % 6 == 1 && decide (count ≤ 121)
  else if code = 0x13 ∨ code = 0x14 ∨ code = 0x15 then count == 1
  else if code = 0x20 then count == 6
  else if code = 0x21 then count == 1
  else if code = 0x22 then count == 5
  else if code = 0x23 ∨ code = 0x24 then count == 2
  else if code = 0x30 then count == 1
  else if code = 0x31 then count == 4
  else if code = 0x3F then count == 0
  else false

end Sys2Proof.Machine
end

