-- ==== Sys2Proof/Machine/Records.lean ====
section
/-! DEFINITION. Building records, word by word (section 11.4). -/

namespace Sys2Proof.Machine

/-- How many 16-bit words a value of a width takes (R110). -/
def valueWordCount (width : Nat) : Nat := (width + 15) / 16

/-- A value in `n` words, most significant first, right-aligned; the bits above the width are the sign of a
signed value and 0 of an unsigned one, which the number itself says (R110). -/
def valueWords (n : Nat) (v : Int) : List Word :=
  (List.range n).map (fun i => BitVec.ofInt 16 (v / 2 ^ (16 * (n - 1 - i))))

/-- The header word of an event or reply record (Table 11-3): kind, length, and the code or status. -/
def recordHeader (kind : BitVec 2) (length low : Nat) : Word :=
  (kind ++ BitVec.ofNat 6 length ++ BitVec.ofNat 8 low : BitVec 16)

/-- An event record (R134, Table 11-5). -/
def eventRecord (k : EventKind) (subject : Word) (cycleCount : Count) (details : List Word) : Record :=
  recordHeader 2#2 (4 + details.length) k.code :: subject :: (countWords cycleCount ++ details)

/-- What a reply says before it is cut into records (R152). -/
structure Reply where
  status : Status
  detail : Word
  bodies : List (List Word)
  deriving DecidableEq, Repr

/-- A reply of one record. -/
def Reply.one (status : Status) (detail : Word) (body : List Word) : Reply :=
  { status := status, detail := detail, bodies := [body] }

/-- A reply record (Table 11-7). -/
def replyRecord (o : QueuedOrder) (status : Status) (detail : Word) (last : Bool) (seq : Nat)
    (body : List Word) : Record :=
  recordHeader 3#2 (4 + body.length) status.number ::
    (0#6 ++ BitVec.ofNat 2 o.trunk.val ++ BitVec.ofBool last ++ 0#1 ++ BitVec.ofNat 6 seq : BitVec 16) ::
    o.header :: detail :: body

/-- The records of a reply, numbered from `seq`, the last carrying the last-record flag (R152). -/
def replyRecordsFrom (o : QueuedOrder) (status : Status) (detail : Word) :
    Nat → List (List Word) → List Record
  | _, [] => []
  | seq, body :: rest =>
    replyRecord o status detail rest.isEmpty seq body :: replyRecordsFrom o status detail (seq + 1) rest

/-- The records of a reply (R152). -/
def replyRecords (o : QueuedOrder) (reply : Reply) : List Record :=
  replyRecordsFrom o reply.status reply.detail 0 reply.bodies

/-- The status in the header of a reply record (R156). -/
def recordStatus (r : Record) : Word := numWord (field (r.headD 0) 0 8)

/-- A complete sample, as the assembly unit hands it to the evaluation unit (R91). -/
structure Sample where
  number     : Nat
  format     : Slot
  trunk      : Trunk
  row        : RowIx
  value      : Int
  width      : Nat
  signed     : Bool
  frame      : Nat
  cycleCount : Count
  mark       : Bool
  deriving DecidableEq, Repr

/-- A sample record (R110, Table 11-4). `limit` is the limit state after the limit machine when the
definition has a limits part, and none otherwise. -/
def sampleRecord (x : Sample) (forced : Bool) (limit : Option LimitClass) : Record :=
  let n := valueWordCount x.width
  (1#2 ++ BitVec.ofNat 6 (5 + n) ++ BitVec.ofBool x.mark ++ BitVec.ofBool forced ++
      BitVec.ofBool limit.isSome ++ 0#3 ++
      BitVec.ofNat 2 (match limit with | none => 0 | some c => c.number) : BitVec 16) ::
    (BitVec.ofNat 12 x.number ++ BitVec.ofNat 2 x.trunk.val ++ BitVec.ofNat 2 x.row.val : BitVec 16) ::
    (countWords x.cycleCount ++
      [(0#5 ++ BitVec.ofNat 3 x.format.val ++ BitVec.ofNat 8 x.frame : BitVec 16)] ++
      valueWords n x.value)

end Sys2Proof.Machine
end

