-- ==== Sys2Proof/Machine/Links.lean ====
section
/-! DEFINITION. What one link transmitter does by itself: the lane arbiter, the stall timer, placing,
flushing, and its state changes (chapter 7). -/

namespace Sys2Proof.Machine

/-- The arbiter's start of the next record (R128). -/
def LinkTx.start (lk : LinkTx) : LinkTx :=
  if lk.state = .up ∧ 0 < lk.credits ∧ lk.sending = none then
    if lk.control ≠ [] ∧ (lk.burst < Config.maxBurst ∨ lk.sample = []) then
      { lk with credits := lk.credits - 1, sending := some .control, burst := min Config.maxBurst (lk.burst + 1) }
    else if lk.sample ≠ [] then
      { lk with credits := lk.credits - 1, sending := some .sample, burst := 0 }
    else lk
  else lk

/-- How many records of the link have not been started (R121). -/
def LinkTx.unstarted (lk : LinkTx) : Nat :=
  lk.control.length + lk.sample.length - (if lk.sending = none then 0 else 1)

/-- The stall timer after a change of the link: it starts with the full stall time when its conditions begin
to hold, keeps running while they hold, and is idle otherwise (R121). -/
def LinkTx.runTimer (lk : LinkTx) : LinkTx :=
  if lk.state = .up ∧ lk.credits = 0 ∧ 0 < lk.unstarted then
    { lk with timer := some (lk.timer.getD lk.stallTime) }
  else { lk with timer := none }

/-- The link after a change: the arbiter considers a start (R128), then the timer is looked at (R121). -/
def LinkTx.settle (lk : LinkTx) : LinkTx := lk.start.runTimer

/-- How a lane answers a placed record (R123). -/
inductive Placing where
  | accepted | full | notUp
  deriving DecidableEq, Repr

/-- The control lane's answer to a placed record (R126). -/
def LinkTx.controlAnswer (lk : LinkTx) : Placing :=
  if lk.state = .up then
    if lk.control.length < Config.controlLane then .accepted else .full
  else .notUp

/-- The sample lane's answer to a placed record (R124). -/
def LinkTx.sampleAnswer (lk : LinkTx) : Placing :=
  if lk.state = .up then
    if lk.sample.length < Config.sampleLane then .accepted else .full
  else .notUp

/-- A record accepted at the tail of the control lane (R123). -/
def LinkTx.pushControl (lk : LinkTx) (r : Record) : LinkTx :=
  { lk with control := lk.control ++ [r] }.settle

/-- A record accepted at the tail of the sample lane (R123). -/
def LinkTx.pushSample (lk : LinkTx) (r : Record) : LinkTx :=
  { lk with sample := lk.sample ++ [r] }.settle

/-- The counters after both lanes are flushed with counting (R118). -/
def LinkTx.flushedCounters (lk : LinkTx) : LinkCounters :=
  { lk.counters with
    sampleFlushed := addTally lk.counters.sampleFlushed lk.sample.length
    controlFlushed := addTally lk.counters.controlFlushed lk.control.length }

/-- The link enters DOWN (R118). -/
def LinkTx.goDown (lk : LinkTx) : LinkTx :=
  { lk with
    state := .down, ready := false, credits := 0, control := [], sample := [], sending := none, burst := 0,
    overrunArmed := true, timer := none, counters := lk.flushedCounters }

/-- The link enters UP from DOWN (R117). -/
def LinkTx.goUp (lk : LinkTx) : LinkTx :=
  { lk with
    state := .up, ready := true, credits := 0, control := [], sample := [], sending := none, burst := 0,
    timer := none }

/-- The link enters STALLED (R121, items (1) to (4)). -/
def LinkTx.stall (lk : LinkTx) : LinkTx :=
  { lk with
    state := .stalled, control := [], sample := [], sending := none, burst := 0, overrunArmed := true,
    timer := none, counters := { lk.flushedCounters with stalls := bump lk.counters.stalls } }

/-- One credit return (R119). -/
def LinkTx.credit (lk : LinkTx) : LinkTx :=
  match lk.state with
  | .up => { lk with credits := min Config.maxCredits (lk.credits + 1), timer := none }.settle
  | .stalled => { lk with state := .up, credits := 1 }.settle
  | .down => lk

/-- The record in transmission leaves its lane after its last word, and the next start is considered
(R129). -/
def LinkTx.sent (lk : LinkTx) : LinkTx :=
  match lk.sending with
  | none => lk
  | some .control =>
    { lk with
      control := lk.control.tail, sending := none,
      counters := { lk.counters with controlSent := bump lk.counters.controlSent } }.settle
  | some .sample =>
    { lk with
      sample := lk.sample.tail, sending := none,
      overrunArmed := lk.overrunArmed || decide (lk.sample.tail.length ≤ Config.overrunRearm),
      counters := { lk.counters with sampleSent := bump lk.counters.sampleSent } }.settle

/-- RESTART at the link: waiting records are flushed uncounted, a record in transmission stays, counters,
burst count and overrun report go back to their first values (R132). -/
def LinkTx.restart (lk : LinkTx) : LinkTx :=
  { lk with
    control := if lk.sending = some .control then lk.control.take 1 else []
    sample := if lk.sending = some .sample then lk.sample.take 1 else []
    burst := 0, overrunArmed := true, timer := none, counters := LinkCounters.zero }

/-- One unit of 4 ms passes at the link: a running timer counts down (R120, R121). -/
def LinkTx.countDown (lk : LinkTx) : LinkTx := { lk with timer := lk.timer.map (fun n => n - 1) }

end Sys2Proof.Machine
end

