-- ==== Sys2Proof/Machine/Events.lean ====
section
/-! DEFINITION. The event unit (chapter 8), and what the links post to it: LANE_OVERRUN, LINK_STALLED and
the room notices. -/

namespace Sys2Proof.Machine

/-- One event counted lost (R139). -/
def State.countLost (s : State) : State := s.setEvents { s.events with lost := bump s.events.lost }

/-- An event record placed toward the control lane of link `l` (R136). -/
def placeEvent (l : Link) (r : Record) (s : State) : State :=
  match (s.link l).controlAnswer with
  | .accepted => s.setLink l ((s.link l).pushControl r)
  | .full => s.countLost
  | .notUp => s.countLost

/-- An event of a kind other than LINK_STALLED and the two one-shot kinds is posted (R135). -/
def postEvent (k : EventKind) (subject : Word) (cycleCount : Count) (details : List Word) (s : State) : State :=
  if s.events.enables k then placeEvent s.events.link (eventRecord k subject cycleCount details) s else s

/-- LINK_STALLED for link `l` is posted: its target is the other link (R135, R121). -/
def postLinkStalled (l : Link) (samples controls stallTime : Nat) (s : State) : State :=
  if s.events.enables .linkStalled then
    placeEvent (otherLink l)
      (eventRecord .linkStalled (numWord l.val) 0 [numWord samples, numWord controls, numWord stallTime]) s
  else s

/-- ORDERS_SHED is posted, once per shedding episode (R137). -/
def postOrdersShed (t : Trunk) (header : Word) (s : State) : State :=
  if s.events.enables .ordersShed && s.events.shedArmed then
    placeEvent s.events.link (eventRecord .ordersShed (numWord t.val) 0 [header])
      (s.setEvents { s.events with shedArmed := false })
  else s

/-- ORDER_REFUSED is posted, once until the trunk has a frame accepted (R138). -/
def postOrderRefused (t : Trunk) (header : Word) (s : State) : State :=
  if s.events.enables .orderRefused && inTrunks s.events.refusalArmed t then
    placeEvent s.events.link (eventRecord .orderRefused (numWord t.val) 0 [header])
      (s.setEvents { s.events with refusalArmed := withoutTrunk s.events.refusalArmed t })
  else s

/-- A frame from the trunk has passed the accept test: its refusal report is armed (R138, R144). -/
def armRefusal (t : Trunk) (s : State) : State :=
  s.setEvents { s.events with refusalArmed := withTrunk s.events.refusalArmed t }

/-- The order queue has become empty: the shed report is armed (R137, R148). -/
def armShed (s : State) : State := s.setEvents { s.events with shedArmed := true }

/-! ### What links post -/

/-- A sample record placed toward the sample lane of link `l` (R124, R125); `number` is its parameter. -/
def placeSample (l : Link) (number : Nat) (r : Record) (s : State) : State :=
  let lk := s.link l
  let dropped := { lk with counters := { lk.counters with dropped := bump lk.counters.dropped } }
  match lk.sampleAnswer with
  | .accepted => s.setLink l (lk.pushSample r)
  | .notUp => s.setLink l dropped
  | .full =>
    if lk.overrunArmed then
      postEvent .laneOverrun (numWord l.val) 0 [numWord number]
        (s.setLink l { dropped with overrunArmed := false })
    else s.setLink l dropped

/-- Link `l` gives a room notice, if the engine waits on its control lane and has been given none: the first
of the two events ends the wait (R126, R153; log 16). -/
def giveNotice (l : Link) (n : RoomNotice) (s : State) : State :=
  match s.orders.engine with
  | .replying o _ _ =>
    if o.replyLink = l ∧ s.orders.notice = none then
      s.setOrders { s.orders with notice := some n }
    else s
  | .idle => s
  | .executing _ => s
  | .settling _ _ => s
  | .restarting _ _ => s
  | .placing _ _ _ => s

/-- The stall timer of link `l` expires: the link stalls and says so on the other link (R121); the engine
is set free if it waits there (R126). A timer that does not run does not expire. -/
def expireTimer (l : Link) (s : State) : State :=
  let lk := s.link l
  if lk.timer.isSome then
    giveNotice l .leftUp
      (postLinkStalled l lk.sample.length lk.control.length lk.stallTime (s.setLink l lk.stall))
  else s

end Sys2Proof.Machine
end

