-- ==== Sys2Proof/Machine/Evaluation.lean ====
section
/-! DEFINITION. The evaluation unit: runtimes, the limit machine, the emission rule, sample records
(chapter 6), and the carry of runtimes across a switch (section 4.5). -/

namespace Sys2Proof.Machine

/-- A fresh runtime (R99). -/
def Runtime.fresh : Runtime :=
  { latest := none, samples := 0, limit := .inside, candidate := none, run := 0, nth := 0, emitted := none }

/-- The runtime with its limit machine at IN, candidate none, run 0 (R78, R111). -/
def Runtime.limitReset (rt : Runtime) : Runtime := { rt with limit := .inside, candidate := none, run := 0 }

/-- The class of a value (R102). -/
def classOf (l : Limits) (v : Int) : LimitClass :=
  if v < l.lo then .low else if l.hi < v then .high else .inside

/-- The limit machine after a sample of class `c`, and whether the sample is forced (R103). -/
def limitStep (persistence : Nat) (c : LimitClass) (rt : Runtime) : Runtime × Bool :=
  if c = rt.limit then ({ rt with candidate := none, run := 0 }, false)
  else
    let run := if rt.candidate = some c then rt.run + 1 else 1
    if persistence ≤ run then ({ rt with limit := c, candidate := none, run := 0 }, true)
    else ({ rt with candidate := some c, run := run }, false)

/-- The emission rule: the runtime after the decision on a sample of value `v`, and whether the sample is
emitted (R105 to R109). -/
def emitStep (e : Emission) (forced : Bool) (v : Int) (rt : Runtime) : Runtime × Bool :=
  let (rt', byMode) :=
    match e with
    | .every => (rt, true)
    | .nth n => if rt.nth + 1 = n then ({ rt with nth := 0 }, true) else ({ rt with nth := rt.nth + 1 }, false)
    | .change d =>
      match rt.emitted with
      | none => (rt, true)
      | some last => (rt, decide ((d : Int) < ((v - last).natAbs : Int)))
  if byMode || forced then ({ rt' with emitted := some v }, true) else (rt', false)

/-- Step (1) of taking a sample: latest value and sample count (R101). -/
def noteSample (x : Sample) (rt : Runtime) : Runtime :=
  { rt with
    latest := some { value := x.value, width := x.width, cycleCount := x.cycleCount, frame := x.frame, mark := x.mark }
    samples := bump rt.samples }

/-- Step (2): the limit machine of a definition, skipped when it has no limits part (R102, R103). -/
def limitPart (d : ParamDef) (x : Sample) (rt : Runtime) : Runtime × Bool :=
  match d.limits with
  | none => (rt, false)
  | some l => limitStep l.persistence (classOf l x.value) rt

/-- The subject word of a LIMIT event (Table 11-6). -/
def limitSubject (before after : LimitClass) (number : Nat) : Word :=
  (BitVec.ofNat 2 before.number ++ BitVec.ofNat 2 after.number ++ BitVec.ofNat 12 number : BitVec 16)

/-- The runtime of a parameter number in a format slot, if there is one. -/
def State.runtime? (s : State) (f : Slot) (number : Nat) : Option Runtime :=
  ((s.runtimesOf f).find? (fun e => e.number == number)).map (fun e => e.runtime)

/-- The runtimes with that of one parameter number replaced. -/
def replaceRuntime (number : Nat) (rt : Runtime) (es : List RuntimeEntry) : List RuntimeEntry :=
  es.map (fun e => if e.number = number then { e with runtime := rt } else e)

/-- The state with the runtime of one parameter number replaced. -/
def State.setRuntime (s : State) (f : Slot) (number : Nat) (rt : Runtime) : State :=
  s.setRuntimes f (replaceRuntime number rt (s.runtimesOf f))

/-- LIMIT is posted for a forced sample (R104). -/
def postLimit (x : Sample) (before after : LimitClass) (s : State) : State :=
  postEvent .limit (limitSubject before after x.number) x.cycleCount
    (valueWords (valueWordCount x.width) x.value) s

/-- The evaluation unit takes one sample of a parameter with definition `d` and runtime `rt` (R100). -/
def evaluate (d : ParamDef) (rt : Runtime) (x : Sample) (s : State) : State :=
  let rt1 := noteSample x rt
  let (rt2, forced) := limitPart d x rt1
  let s1 := if forced then postLimit x rt1.limit rt2.limit s else s
  let (rt3, emitted) := emitStep d.emission forced x.value rt2
  let s2 := s1.setRuntime x.format x.number rt3
  if emitted then
    placeSample d.link x.number (sampleRecord x forced (d.limits.map (fun _ => rt2.limit))) s2
  else s2

/-- The evaluation unit takes one sample under the definition and the runtime that the active bank has for
it (R100). -/
def takeSample (x : Sample) (s : State) : State :=
  match (s.activeBank x.format).definition? x.number, s.runtime? x.format x.number with
  | some d, some rt => evaluate d rt x s
  | _, _ => s

/-! ### Across a switch (R77, R78) -/

/-- The NTH count under an emission rule: 0 when it is not below the new n (R78, R111). -/
def nthUnder (e : Emission) (count : Nat) : Nat :=
  match e with
  | .nth n => if count < n then count else 0
  | .every => count
  | .change _ => count

/-- A carried runtime adjusted to the new definition (R78). -/
def adjustCarried (old new : ParamDef) (rt : Runtime) : Runtime :=
  let rt1 := if old.limits.isSome && new.limits.isSome then rt else rt.limitReset
  { rt1 with nth := nthUnder new.emission rt1.nth }

/-- The runtime of one definition of the new active bank (R77). -/
def carryOne (old : Bank) (runtimes : List RuntimeEntry) (new : ParamDef) : RuntimeEntry :=
  match old.definition? new.number, runtimes.find? (fun e => e.number == new.number) with
  | some d, some e =>
    if d.pieces = new.pieces ∧ d.signed = new.signed then
      { number := new.number, runtime := adjustCarried d new e.runtime }
    else { number := new.number, runtime := Runtime.fresh }
  | _, _ => { number := new.number, runtime := Runtime.fresh }

/-- The runtimes of the new active bank (R77). -/
def carryRuntimes (old new : Bank) (runtimes : List RuntimeEntry) : List RuntimeEntry :=
  new.params.map (carryOne old runtimes)

/-- Fresh runtimes for every parameter of a bank (R115). -/
def freshRuntimes (b : Bank) : List RuntimeEntry :=
  b.params.map (fun d => { number := d.number, runtime := Runtime.fresh })

/-! ### TUNE_PARAM (R111) -/

/-- The runtime adjusted from the old definition to the tuned one (R111). -/
def adjustTuned (old new : ParamDef) (rt : Runtime) : Runtime :=
  let rt1 := if old.limits = new.limits then rt else rt.limitReset
  if old.emission.number = new.emission.number then { rt1 with nth := nthUnder new.emission rt1.nth }
  else { rt1 with nth := 0, emitted := none }

end Sys2Proof.Machine
end

