-- ==== Sys2Proof/Machine/Assembly.lean ====
section
/-! DEFINITION. The slot router and the assembly unit (chapter 5): words become pieces, pieces become
samples. -/

namespace Sys2Proof.Machine

/-- A piece, as the router hands it to the assembly unit (R85). -/
structure Piece where
  number     : Nat
  index      : Nat
  value      : Nat
  width      : Nat
  mark       : Bool
  frame      : Nat
  cycleCount : Count
  trunk      : Trunk
  row        : RowIx
  format     : Slot
  deriving DecidableEq, Repr

/-- The frame's standing and minor frame number, as the cycle state machine gave them (R81). -/
structure Standing where
  locked : Bool
  number : Nat
  deriving DecidableEq, Repr

/-! ### Contexts -/

/-- The concatenation of piece values of width `w`, piece 0 most significant (R90). -/
def concatPieces (w : Nat) (vs : List Nat) : Nat := vs.foldl (fun a v => a * 2 ^ w + v) 0

/-- A concatenation of a width read as unsigned or two's complement (R90). -/
def readValue (signed : Bool) (width n : Nat) : Int :=
  if signed && decide (2 ^ (width - 1) ≤ n) then (n : Int) - 2 ^ width else n

/-- The value under a piece index of a PARTIAL context, if present. -/
def Partial.piece? (c : Partial) (i : Nat) : Option Nat :=
  match rowOf i with
  | none => none
  | some j => pick c.pieces j

/-- A PARTIAL context with a value stored under an index (R89). -/
def Partial.store (c : Partial) (i v : Nat) : Partial :=
  match rowOf i with
  | none => c
  | some j => { c with pieces := put c.pieces j (some v) }

/-- The context after a piece: begun when EMPTY, extended when PARTIAL (R89). -/
def addPiece (p : Piece) : Option Partial → Partial
  | none =>
    Partial.store
      { pieces := Vector.replicate 4 none, width := p.width, cycleCount := p.cycleCount, trunk := p.trunk,
        row := p.row, format := p.format, mark := p.mark } p.index p.value
  | some c => { c.store p.index p.value with mark := c.mark || p.mark }

/-- The values of pieces 0 to p−1 when all are present (R89). -/
def Partial.complete? (c : Partial) (p : Nat) : Option (List Nat) := (List.range p).mapM c.piece?

/-- The sample formed from a complete context by its last piece (R90, R91). -/
def sampleOf (d : ParamDef) (c : Partial) (p : Piece) (values : List Nat) : Sample :=
  let width := d.pieces * c.width
  { number := p.number, format := c.format, trunk := c.trunk, row := c.row,
    value := readValue d.signed width (concatPieces c.width values), width := width, signed := d.signed,
    frame := p.frame, cycleCount := c.cycleCount, mark := c.mark }

/-- The contexts with that of one parameter number replaced. -/
def replaceContext (number : Nat) (c : Option Partial) (cs : List Context) : List Context :=
  cs.map (fun x => if x.number = number then { x with held := c } else x)

/-- What a parameter's context holds; `none` is EMPTY. -/
def heldContext (number : Nat) (cs : List Context) : Option Partial :=
  match cs.find? (fun x => x.number == number) with
  | none => none
  | some x => x.held

/-- The assembly unit takes one piece (R86, R88, R89). -/
def takePiece (p : Piece) (s : State) : State :=
  match (s.activeBank p.format).definition? p.number with
  | none => s
  | some d =>
    let c := addPiece p (if d.pieces = 1 then none else heldContext p.number (s.contextsOf p.format))
    match c.complete? d.pieces with
    | some values =>
      takeSample (sampleOf d c p values)
        (s.setContexts p.format (replaceContext p.number none (s.contextsOf p.format)))
    | none => s.setContexts p.format (replaceContext p.number (some c) (s.contextsOf p.format))

/-- EMPTY contexts for every parameter of a bank (R87). -/
def emptyContexts (b : Bank) : List Context := b.params.map (fun d => { number := d.number, held := none })

/-- How many contexts are PARTIAL. -/
def partialCount (cs : List Context) : Nat := cs.countP (fun c => c.held.isSome)

/-- Every PARTIAL context of a format slot is broken (R92). -/
def breakContexts (f : Slot) (s : State) : State :=
  s.setContexts f ((s.contextsOf f).map (fun c => { c with held := none }))

/-- Every PARTIAL context of a format slot is broken and counted on a row (R93, R94). -/
def breakCounted (f : Slot) (t : Trunk) (r : RowIx) (s : State) : State :=
  breakContexts f
    (s.onRow t r (fun x => { x with broken := addTally x.broken (partialCount (s.contextsOf f)) }))

/-! ### Routing -/

/-- Whether the word at a position is looked up (R82). -/
def lookedUp (p : Profile) (h : Option Header) (pos : Nat) : Bool :=
  decide (p.syncWords < pos) && !(p.tagPos != 0 && pos == p.tagPos) &&
    !(match h with | none => false | some h => decide (1 < h.length) && pos == h.idPos)

/-- Whether a slot entry matches a word at a position of a routed frame (R83). -/
def entryMatches (pos : Nat) (st : Standing) (e : SlotEntry) : Bool :=
  e.pos == pos && (e.interval == 1 || (st.locked && st.number % e.interval == e.offset))

/-- The slot router takes the words of a frame from position `pos` on, in ascending order (R82 to R85).
The bank `b` is the active bank when routing begins (R81). -/
def routeWords (prof : Profile) (b : Bank) (t : Trunk) (r : RowIx) (f : Slot) (st : Standing) (cc : Count)
    (mark : Bool) : Nat → List Word → State → State
  | _, [], s => s
  | pos, w :: rest, s =>
    let s' :=
      if lookedUp prof b.header pos then
        match b.slots.find? (entryMatches pos st) with
        | none => s
        | some e =>
          takePiece
            { number := e.param, index := e.piece, value := w.toNat, width := prof.width, mark := mark,
              frame := st.number, cycleCount := cc, trunk := t, row := r, format := f } s
      else s
    routeWords prof b t r f st cc mark (pos + 1) rest s'

/-- The slot router routes a frame of row `r` of trunk `t` (R81). -/
def routeFrame (t : Trunk) (r : RowIx) (st : Standing) (words : List Word) (mark : Bool) (s : State) : State :=
  match s.row t r with
  | none => s
  | some x =>
    routeWords (s.receiver t).profile (s.activeBank x.format) t r x.format st x.cycleCount mark 1 words s

end Sys2Proof.Machine
end

