-- ==== Sys2Proof/Machine/Switch.lean ====
section
/-! DEFINITION. The switch control (chapter 4): the switch, probation, revert, the adjustment of the bound
row (R35), and the change of a row's cycle state with its CYCLE_SYNC (R36). -/

namespace Sys2Proof.Machine

/-! ### CYCLE_SYNC -/

/-- The subject word of a CYCLE_SYNC event: trunk and row (Table 11-6). -/
def sourceSubject (t : Trunk) (r : RowIx) : Word := numWord (t.val * 4 + r.val)

/-- A detail word of two states, before and after (Table 11-6). -/
def statesWord (before after : Nat) : Word := (BitVec.ofNat 8 before ++ BitVec.ofNat 8 after : BitVec 16)

/-- A detail word of a format slot and a frame number (Table 11-6). -/
def frameWord (f : Slot) (frame : Nat) : Word := (0#5 ++ BitVec.ofNat 3 f.val ++ BitVec.ofNat 8 frame : BitVec 16)

/-- CYCLE_SYNC is posted for a row that now reads `x` (R36). -/
def postCycleSync (t : Trunk) (r : RowIx) (before : CycleState) (x : Row) (s : State) : State :=
  postEvent .cycleSync (sourceSubject t r) x.cycleCount
    [statesWord before.number x.cycle.number, frameWord x.format x.current] s

/-- An occupied row is changed, and CYCLE_SYNC is posted if its cycle state is another (R36). -/
def changeRow (t : Trunk) (r : RowIx) (g : Row → Row) (s : State) : State :=
  match s.row t r with
  | none => s
  | some x =>
    if x.cycle = (g x).cycle then s.setRow t r (some (g x))
    else postCycleSync t r x.cycle (g x) (s.setRow t r (some (g x)))

/-! ### The switch (R69) -/

/-- The standby state of the bank that leaves the active role (R69, step 2). -/
def standbyAfter (cause : SwitchCause) (old : Bank) : Standby :=
  match cause with
  | .revert => .staging
  | .commit => if old.committed then .fallback else .empty
  | .immediate => if old.committed then .fallback else .empty
  | .unlock => if old.committed then .fallback else .empty
  | .unbind => if old.committed then .fallback else .empty
  | .order => if old.committed then .fallback else .empty

/-- The probation record after a switch (R69, step 5). -/
def probationAfter (cause : SwitchCause) (new : Bank) : Option Nat :=
  match cause, new.header with
  | .commit, some h => if 0 < h.probation then some h.probation else none
  | _, _ => none

/-- The format slot after a switch: roles exchanged, standby state and probation set (R69, steps 1, 2
and 5). -/
def FormatSlot.switched (x : FormatSlot) (cause : SwitchCause) : FormatSlot :=
  { x with
    active := x.active.other
    standby := standbyAfter cause x.activeBank
    probation := probationAfter cause x.standbyBank }

/-- A row's state adjusted to the bank that has become active (R35). -/
def adjustRow (b : Bank) (x : Row) : Row :=
  match x.cycle with
  | .unformatted => { x with cycle := .search }
  | .check => { x with cycle := .search, check := 0 }
  | .search => x
  | .locked =>
    match b.header with
    | none => x
    | some h => if h.length ≤ x.expected then { x with expected := 0 } else x

/-- The detail word of BANK_SWITCH (Table 11-6). -/
def switchWord (x : FormatSlot) (cause : SwitchCause) : Word :=
  (BitVec.ofNat 4 x.active.letter ++ BitVec.ofNat 4 cause.number ++ BitVec.ofNat 4 x.standby.number ++
    BitVec.ofNat 4 (x.probation.getD 0) : BitVec 16)

/-- BANK_SWITCH is posted for a format slot as it now stands (R72). -/
def postBankSwitch (f : Slot) (cause : SwitchCause) (s : State) : State :=
  postEvent .bankSwitch (numWord f.val) (s.boundCycleCount f) [switchWord (s.format f) cause] s

/-- PARTIAL contexts that a switch discards are counted on the bound row (R79). -/
def countDiscarded (f : Slot) (s : State) : State :=
  match s.boundRow f with
  | none => s
  | some (t, r) => s.onRow t r (fun x => { x with broken := addTally x.broken (partialCount (s.contextsOf f)) })

/-- The bound row is adjusted to the new active bank (R69, step 7). -/
def adjustBound (f : Slot) (s : State) : State :=
  match s.boundRow f with
  | none => s
  | some (t, r) => changeRow t r (adjustRow (s.activeBank f)) s

/-- A switch of a format slot (R69). -/
def switchFormat (f : Slot) (cause : SwitchCause) (s : State) : State :=
  let old := (s.format f).activeBank
  let new := (s.format f).standbyBank
  let s1 := s.setFormat f ((s.format f).switched cause)
  let s2 := (countDiscarded f s1).setContexts f (emptyContexts new)
  let s3 := s2.setRuntimes f (carryRuntimes old new (s.runtimesOf f))
  adjustBound f (postBankSwitch f cause s3)

/-! ### Probation -/

/-- PROBATION_PASSED is posted (R74, R76). -/
def postProbationPassed (f : Slot) (s : State) : State :=
  postEvent .probationPassed (numWord f.val) (s.boundCycleCount f)
    [numWord (s.format f).active.letter] s

/-- A probation in progress passes; its standby stays in FALLBACK (R74, R76). -/
def passProbation (f : Slot) (s : State) : State :=
  postProbationPassed f (s.setFormat f { s.format f with probation := none })

/-- The switch control at a cycle boundary of the bound row (R32 step 3, R70, R74). -/
def switchAtBoundary (f : Slot) (s : State) : State :=
  if (s.format f).standby = .armed then switchFormat f .commit s
  else
    match (s.format f).probation with
    | none => s
    | some n =>
      if n ≤ 1 then passProbation f s
      else s.setFormat f { s.format f with probation := some (n - 1) }

/-- Why lock was lost (R33). -/
inductive LossCause where
  | traffic | order
  deriving DecidableEq, Repr

/-- The switch control at a loss of lock of the bound row (R33 step 5, R70, R75). -/
def switchAtLoss (f : Slot) (cause : LossCause) (s : State) : State :=
  if (s.format f).standby = .armed then switchFormat f .unlock s
  else if (s.format f).probation.isSome && cause == .traffic then switchFormat f .revert s
  else s

/-- The switch control's part of UNBIND_SOURCE, SET_TRUNK and RESTART for one format slot (R71, R76). -/
def settleFormat (cause : SwitchCause) (s : State) (f : Slot) : State :=
  if (s.format f).standby = .armed then switchFormat f cause s
  else if (s.format f).probation.isSome then passProbation f s
  else s

end Sys2Proof.Machine
end

