-- ==== Sys2Proof/Machine/Tracker.lean ====
section
/-! DEFINITION. The source tracker (chapter 2): sorting frames to rows, the cycle state machine, cycle
boundary, lock lost, delivery ended, and the frames that wait during RESTART (R175). -/

namespace Sys2Proof.Machine

/-! ### Sorting (R24, R25) -/

/-- Whether a row is occupied and has this tag value. -/
def hasTag (v : Nat) : Option Row → Bool
  | none => false
  | some x => x.tag == some v

/-- The row a frame goes to, if any (R24, R25). -/
def sortFrame (s : State) (t : Trunk) (words : List Word) : Option RowIx :=
  let p := (s.receiver t).profile
  if p.tagPos = 0 then (if (s.row t 0).isSome then some 0 else none)
  else rowList.find? (fun r => hasTag (words.getD (p.tagPos - 1) 0).toNat (s.row t r))

/-! ### Loss of lock (R33) -/

/-- A row loses lock (R33). -/
def loseLock (t : Trunk) (r : RowIx) (cause : LossCause) (s : State) : State :=
  match s.row t r with
  | none => s
  | some x =>
    let s1 := changeRow t r
      (fun y => { y with cycle := .search, miss := 0, check := 0, losses := bump y.losses }) s
    switchAtLoss x.format cause (breakCounted x.format t r s1)

/-- One row takes the delivery-ended signal (R34). -/
def endRow (t : Trunk) (cause : LossCause) (s : State) (r : RowIx) : State :=
  match s.row t r with
  | none => s
  | some x =>
    match x.cycle with
    | .locked => loseLock t r cause s
    | .check => changeRow t r (fun y => { y with cycle := .search, check := 0 }) s
    | .search => s
    | .unformatted => s

/-- The delivery-ended signal reaches the rows of a trunk, row 0 to row 3 (R34). -/
def endDelivery (t : Trunk) (cause : LossCause) (s : State) : State := rowList.foldl (endRow t cause) s

/-! ### The cycle state machine (R26 to R31) -/

/-- The minor frame number n that an ID word gives, or none when out of range (R27). -/
def frameNumberOf (h : Header) (v : Nat) : Option Nat :=
  if h.idBase ≤ v ∧ v - h.idBase < h.length then some (v - h.idBase) else none

/-- The ID word of a frame (R27). -/
def idWordOf (h : Header) (words : List Word) : Nat := (words.getD (h.idPos - 1) 0).toNat

/-- A row that locks at a frame numbered `n` (R28, R29). -/
def Row.lockAt (x : Row) (m n : Nat) : Row :=
  { x with cycle := .locked, check := 0, miss := 0, expected := (n + 1) % m, current := n }

/-- A row that checks from, or on, a frame numbered `n` (R28, R29). -/
def Row.checkAt (x : Row) (m n count : Nat) : Row :=
  { x with cycle := .check, check := count, expected := (n + 1) % m, current := n }

/-- CYCLE_SEARCH takes a frame (R28; R31 for M = 1). -/
def searchRow (h : Header) (words : List Word) (x : Row) : Row × Standing :=
  if h.length = 1 then (x.lockAt 1 0, { locked := true, number := 0 })
  else
    match frameNumberOf h (idWordOf h words) with
    | none => (x, { locked := false, number := x.current })
    | some n =>
      if 1 < h.verify then (x.checkAt h.length n 1, { locked := false, number := n })
      else (x.lockAt h.length n, { locked := true, number := n })

/-- CYCLE_CHECK takes a frame (R29). -/
def checkRow (h : Header) (words : List Word) (x : Row) : Row × Standing :=
  match frameNumberOf h (idWordOf h words) with
  | none => ({ x with cycle := .search, check := 0 }, { locked := false, number := x.current })
  | some n =>
    if n = x.expected then
      if x.check + 1 < h.verify then (x.checkAt h.length n (x.check + 1), { locked := false, number := n })
      else (x.lockAt h.length n, { locked := true, number := n })
    else (x.checkAt h.length n 1, { locked := false, number := n })

/-- CYCLE_LOCKED takes a frame: the row with its miss count and its current frame number (R30), the
expected number not yet moved on; for M = 1 no ID word is read (R31). -/
def lockedRow (h : Header) (words : List Word) (x : Row) : Row :=
  if h.length = 1 then { x with current := 0, expected := 0 }
  else if frameNumberOf h (idWordOf h words) = some x.expected then { x with current := x.expected, miss := 0 }
  else { x with current := x.expected, miss := x.miss + 1, mismatches := bump x.mismatches }

/-- The cycle state machine of row `r` takes a frame under header `h` (R28 to R31). -/
def cycleStep (t : Trunk) (r : RowIx) (h : Header) (words : List Word) (x : Row) (s : State) :
    State × Standing :=
  match x.cycle with
  | .unformatted => (s, { locked := false, number := x.current })
  | .search =>
    let (y, st) := searchRow h words x
    (changeRow t r (fun _ => y) s, st)
  | .check =>
    let (y, st) := checkRow h words x
    (changeRow t r (fun _ => y) s, st)
  | .locked =>
    let y := lockedRow h words x
    if h.length ≠ 1 ∧ h.missLimit ≤ y.miss then
      (loseLock t r .traffic (s.setRow t r (some y)), { locked := false, number := y.expected })
    else
      (s.setRow t r (some { y with expected := (y.expected + 1) % h.length }),
        { locked := true, number := y.expected })

/-! ### Cycle boundary (R32) -/

/-- A cycle boundary of row `r` (R32). -/
def cycleBoundary (t : Trunk) (r : RowIx) (s : State) : State :=
  match s.row t r with
  | none => s
  | some x =>
    switchAtBoundary x.format
      (breakCounted x.format t r (s.onRow t r (fun y => { y with cycleCount := y.cycleCount + 1 })))

/-! ### Processing a frame (section 2.3) -/

/-- An occupied row processes a frame: cycle state, routing, boundary (section 2.3; R26 for UNFORMATTED).
A formatted row's active bank always holds a header; were there none, the frame would go no further
(log 22). -/
def rowFrame (t : Trunk) (r : RowIx) (x : Row) (words : List Word) (mark : Bool) (s : State) : State :=
  if x.cycle = .unformatted then s
  else
    match (s.activeBank x.format).header with
    | none => s
    | some h =>
      let (s1, st) := cycleStep t r h words x s
      let s2 := routeFrame t r st words mark s1
      if st.locked && st.number + 1 == h.length then cycleBoundary t r s2 else s2

/-- The tracker processes a delivered frame: sorting, then the row, or one unmatched-tag frame (R24,
R25). -/
def processFrame (t : Trunk) (words : List Word) (mark : Bool) (s : State) : State :=
  let unmatched := s.onCounters t (fun c => { c with unmatched := bump c.unmatched })
  match sortFrame s t words with
  | none => unmatched
  | some r =>
    match s.row t r with
    | none => unmatched
    | some x => rowFrame t r x words mark s

/-! ### Frames that wait during RESTART (R175) -/

/-- What waited is taken: a frame is processed, the delivery-ended signal of a sync loss is handled
(log 6). -/
def takeWaiting (t : Trunk) (s : State) : Waiting → State
  | .frame words mark => processFrame t words mark s
  | .deliveryEnded => endDelivery t .traffic s

/-- Everything that waits at the tracker is taken in order of delivery (R175, R34). -/
def drainWaiting (t : Trunk) (s : State) : State :=
  (s.tracker t).waiting.foldl (takeWaiting t) (s.setWaiting t [])

/-- The delivery-ended signals at the head of what waits are handled. -/
def takeSignals (t : Trunk) : List Waiting → State → State
  | .deliveryEnded :: rest, s => takeSignals t rest (endDelivery t .traffic (s.setWaiting t rest))
  | .frame _ _ :: _, s => s
  | [], s => s

/-- Whether the tracker of trunk `t` takes no delivered frame: RESTART has reinitialized the trunk and has
not yet set the rows (R175). -/
def State.held (s : State) (t : Trunk) : Bool :=
  match s.orders.engine with
  | .restarting _ left => left.contains .rows && !left.contains (.trunk t)
  | .idle => false
  | .executing _ => false
  | .settling _ _ => false
  | .placing _ _ _ => false
  | .replying _ _ _ => false

/-- How many of the waiting things are frames. -/
def waitingFrames (ws : List Waiting) : Nat :=
  ws.countP (fun w => match w with | .frame _ _ => true | .deliveryEnded => false)

/-- A delivered frame reaches the tracker: it waits, or is discarded when four wait, or is processed after
those that waited before it (R175). -/
def trackerFrame (t : Trunk) (words : List Word) (mark : Bool) (s : State) : State :=
  if s.held t then
    if waitingFrames (s.tracker t).waiting < Config.waitingRoom then
      s.setWaiting t ((s.tracker t).waiting ++ [.frame words mark])
    else s
  else processFrame t words mark (drainWaiting t s)

/-- The delivery-ended signal of a sync loss reaches the tracker, behind every frame delivered before it
(R11, R34). -/
def trackerEnded (t : Trunk) (s : State) : State :=
  if s.held t && !(s.tracker t).waiting.isEmpty then
    s.setWaiting t ((s.tracker t).waiting ++ [.deliveryEnded])
  else endDelivery t .traffic (drainWaiting t s)

end Sys2Proof.Machine
end

