-- ==== Sys2Proof/Machine/Receiver.lean ====
section
/-! DEFINITION. The trunk receiver (chapter 1): comparisons, the frame synchronizer, the order marker
detector, delivery, and reinitialization. -/

namespace Sys2Proof.Machine

/-! ### Comparisons (R3, R12) -/

/-- L = S × W, the length of the sync pattern in bits (R1). -/
def Profile.patternBits (p : Profile) : Nat := p.syncWords * p.width

/-- N × W, the length of a minor frame in bits (R1). -/
def Profile.frameBits (p : Profile) : Nat := p.words * p.width

/-- How many bits of a 48-bit stretch are 1. -/
def onesIn (x : Window) : Nat := (List.range 48).countP (fun i => x.getLsbD i)

/-- The number of differing bits between the L bits that begin a stretch and the pattern (R3). -/
def differingBits (p : Profile) (bits : Window) : Nat := onesIn ((bits >>> (48 - p.patternBits)) ^^^ p.pattern)

/-- Whether the comparison is a match (R3). -/
def syncMatches (p : Profile) (bits : Window) : Bool := decide (differingBits p bits ≤ p.tolerance)

/-- Whether the first 32 bits of a stretch are the order marker (R12). -/
def startsWithMarker (bits : Window) : Bool := bits.extractLsb' 16 32 == Config.orderMarker

/-- How many bits of the stretch have arrived when they depart from the marker (R12); 32 if they do not. -/
def markerDeparture (bits : Window) : Nat :=
  match (List.range 32).find? (fun i => bits.getLsbD (47 - i) != Config.orderMarker.getLsbD (31 - i)) with
  | none => 32
  | some i => i + 1

/-! ### Synchronizer states -/

/-- Whether the synchronizer compares at expected boundaries alone (Table 1-1). -/
def SyncState.atBoundary : SyncState → Bool
  | .off => false
  | .search => false
  | .verify => true
  | .locked => true
  | .flywheel => true

/-- TRUNK_SYNC is posted (R17). -/
def postTrunkSync (t : Trunk) (before after : SyncState) (s : State) : State :=
  postEvent .trunkSync (numWord t.val) 0 [statesWord before.number after.number] s

/-- A receiver is changed, and TRUNK_SYNC is posted if its synchronizer state is another (R17). -/
def changeReceiver (t : Trunk) (y : Receiver) (s : State) : State :=
  if (s.receiver t).sync = y.sync then s.setReceiver t y
  else postTrunkSync t (s.receiver t).sync y.sync (s.setReceiver t y)

/-- The receiver enters SEARCH on a miss at boundary `e`: the resume point follows the missed sync field
(R7 to R9). -/
def Receiver.searchAfter (x : Receiver) (e : Nat) : Receiver :=
  { x with
    sync := .search, hits := 0, misses := 0, resume := e + x.profile.patternBits, boundary := none, frame := none }

/-- The receiver counts one sync loss (R15). -/
def Receiver.countLoss (x : Receiver) : Receiver :=
  { x with counters := { x.counters with syncLosses := bump x.counters.syncLosses } }

/-- The receiver takes the frame that begins at `e` as the next minor frame: state, counts, the frame to
deliver if any, and the next expected boundary (R4). -/
def Receiver.takeFrame (x : Receiver) (e : Nat) (state : SyncState) (hits misses : Nat)
    (frame : Option Collection) : Receiver :=
  { x with
    sync := state, hits := hits, misses := misses, boundary := some (e + x.profile.frameBits), frame := frame }

/-- A frame to be delivered from bit `e`, with or without the flywheel mark (R10). -/
def collect (e : Nat) (mark : Bool) : Option Collection := some { start := e, mark := mark }

/-- The hit or miss at boundary `e` (R7 to R9). OFF and SEARCH compare at no boundary. -/
def Receiver.boundaryStep (x : Receiver) (e : Nat) (hit : Bool) : Receiver :=
  match x.sync, hit with
  | .verify, true =>
    if x.hits + 1 < x.profile.verify then x.takeFrame e .verify (x.hits + 1) 0 none
    else x.takeFrame e .locked 0 0 (collect e false)
  | .verify, false => x.searchAfter e
  | .locked, true => x.takeFrame e .locked 0 0 (collect e false)
  | .locked, false =>
    if 1 < x.profile.flywheel then x.takeFrame e .flywheel 0 1 (collect e true)
    else (x.searchAfter e).countLoss
  | .flywheel, true => x.takeFrame e .locked 0 0 (collect e false)
  | .flywheel, false =>
    if x.misses + 1 < x.profile.flywheel then x.takeFrame e .flywheel 0 (x.misses + 1) (collect e true)
    else (x.searchAfter e).countLoss
  | .off, _ => x
  | .search, _ => x

/-- The match of a candidate in SEARCH at bit `e` (R6). -/
def Receiver.candidateStep (x : Receiver) (e : Nat) : Receiver :=
  if 1 < x.profile.verify then x.takeFrame e .verify 1 0 none
  else x.takeFrame e .locked 0 0 (collect e false)

/-- The receiver knows that bits up to, not including, `n` have arrived. -/
def Receiver.seen (x : Receiver) (n : Nat) : Receiver := { x with arrived := max x.arrived n }

/-! ### Reinitialization (R19, R20) -/

/-- The receiver after a reinitialization with a profile: SEARCH or OFF, counts 0, the resume point the next
bit to arrive, no minor frame in collection, an order frame in reception undisturbed (R19, items (2) and
(3)). -/
def Receiver.reinit (x : Receiver) (p : Profile) : Receiver :=
  { x with
    profile := p, sync := if p.enable then .search else .off, hits := 0, misses := 0, resume := x.arrived,
    boundary := none, frame := none }

/-- A trunk of which `arrived` bits have arrived is reinitialized with a profile (R19, R20): frames delivered
before are processed first (R34), then TRUNK_SYNC, the delivery-ended signal with cause order, and the
counters. -/
def reinitTrunk (t : Trunk) (p : Profile) (arrived : Nat) (s : State) : State :=
  let s1 := drainWaiting t s
  let s2 := changeReceiver t (((s1.receiver t).seen arrived).reinit p) s1
  (endDelivery t .order s2).onCounters t (fun _ => TrunkCounters.zero)

end Sys2Proof.Machine
end

