-- ==== Sys2Proof/Machine/OrderUnit.lean ====
section
/-! DEFINITION. The order unit (chapter 9): taking order frames in, the order engine, replies, reply memory
and replay. -/

namespace Sys2Proof.Machine

/-- The engine state replaced. -/
def State.setEngine (s : State) (e : Engine) : State := s.setOrders { s.orders with engine := e }

/-! ### The engine's taking of orders (R148) -/

/-- In IDLE the engine takes the head order; a take that leaves the queue empty arms the shed report
(R148, R137). -/
def takeNext (s : State) : State :=
  match s.orders.engine, s.orders.queue with
  | .idle, o :: rest =>
    let s1 := s.setOrders { s.orders with engine := .executing o, queue := rest }
    if rest.isEmpty then armShed s1 else s1
  | _, _ => s

/-! ### Taking frames in (R144 to R147) -/

/-- Whether a queued order of the same trunk carries the same tag (R145). -/
def sameTag (o : QueuedOrder) (q : QueuedOrder) : Bool := q.trunk == o.trunk && q.tag == o.tag

/-- The room test (R146), after which the engine takes a waiting order if it is IDLE (R148). -/
def roomTest (o : QueuedOrder) (s : State) : State :=
  if s.orders.queue.length < Config.queueRoom then
    takeNext (s.setOrders { s.orders with queue := s.orders.queue ++ [o] })
  else postOrdersShed o.trunk o.header (s.onCounters o.trunk (fun c => { c with shed := bump c.shed }))

/-- An order frame whose check passed is handed to the order unit: accept test, duplicate test, room test
(R144 to R146). -/
def handOrder (o : QueuedOrder) (s : State) : State :=
  if inTrunks s.orders.accept o.trunk then
    let s1 := armRefusal o.trunk s
    if o.tag != 0 && s1.orders.queue.any (sameTag o) then s1 else roomTest o s1
  else
    postOrderRefused o.trunk o.header (s.onCounters o.trunk (fun c => { c with refused := bump c.refused }))

/-! ### Replies (R152 to R155) -/

/-- After the final reply record: the reply-memory row of a tagged order is written, the order is dropped,
and the engine takes the next one (R154, R148). -/
def finishOrder (o : QueuedOrder) (final : Record) (s : State) : State :=
  let row : MemoryRow := { tag := o.tag, code := o.code, record := final }
  let memory := if o.tag = 0 then s.orders.memory else put s.orders.memory o.trunk (some row)
  takeNext (s.setOrders { s.orders with memory := memory, engine := .idle, notice := none })

/-- Reply records are placed in order toward the order's link: each is accepted, discarded, or held until a
room notice (R152, R153). `later` are the records after them, which the engine keeps for later commands
(log 26); `final` is the last of the reply. -/
def placeReplies (o : QueuedOrder) (final : Record) (later : List Record) : List Record → State → State
  | [], s =>
    match later with
    | [] => finishOrder o final s
    | next :: rest => s.setOrders { s.orders with engine := .placing o next rest, notice := none }
  | r :: rest, s =>
    match (s.link o.replyLink).controlAnswer with
    | .accepted => placeReplies o final later rest (s.setLink o.replyLink ((s.link o.replyLink).pushControl r))
    | .notUp => placeReplies o final later rest s
    | .full => s.setOrders { s.orders with engine := .replying o r (rest ++ later), notice := none }

/-- The first `n` of a list of reply records are placed; the list's last record is the reply's final one. -/
def sendUpTo (n : Nat) (o : QueuedOrder) (rs : List Record) (s : State) : State :=
  placeReplies o (rs.getLast?.getD []) (rs.drop n) (rs.take n) s

/-- A list of reply records is placed, its last record being the final one. -/
def sendRecords (o : QueuedOrder) (rs : List Record) (s : State) : State :=
  placeReplies o (rs.getLast?.getD []) [] rs s

/-- An order is answered (R152). -/
def answer (o : QueuedOrder) (reply : Reply) (s : State) : State := sendRecords o (replyRecords o reply) s

/-- An order is answered with the first `n` records of its reply, the others being left to place (R152). -/
def answerUpTo (n : Nat) (o : QueuedOrder) (reply : Reply) (s : State) : State :=
  sendUpTo n o (replyRecords o reply) s

/-! ### Tag test and frame checks (R149, R150) -/

/-- The stored reply record that answers a repeated state-changing order, if the tag test finds one
(R149). -/
def storedReply (o : QueuedOrder) (s : State) : Option Record :=
  if o.tag ≠ 0 ∧ readOnlyCode o.code = false then
    match pick s.orders.memory o.trunk with
    | none => none
    | some m => if m.tag = o.tag ∧ m.code = o.code then some m.record else none
  else none

/-- The answer to an order of a known code that fails its frame checks (R150, items (2) and (3)). -/
def frameFailure (o : QueuedOrder) : Option Reply :=
  if o.reservedSet then some (Reply.one .badArgument 0xFFFF [])
  else if permittedCount o.code o.bodyCount then none
  else some (Reply.one .badLength (numWord o.bodyCount) [])

/-- The engine begins the order in execution when its code is `code` (R148 to R150): replay, the frame checks,
and then the order's own part, `act`. With no such order in execution there is nothing to begin (log 1). -/
def takeUp (code : Nat) (act : QueuedOrder → State → State) (s : State) : State :=
  match s.orders.engine with
  | .executing o =>
    if o.code = code then
      match storedReply o s with
      | some record => sendRecords o [record] s
      | none =>
        match frameFailure o with
        | some reply => answer o reply s
        | none => act o s
    else s
  | .idle => s
  | .settling _ _ => s
  | .restarting _ _ => s
  | .placing _ _ _ => s
  | .replying _ _ _ => s

/-- The engine carries out the order in execution when its code is `code` (R148 to R155): its own checks and
effects (`perform`), and the reply, which `send` places. Effects and the placing that `send` makes are one
step: no event falls between them (log 25). -/
def carryOutBy (send : QueuedOrder → Reply → State → State) (code : Nat)
    (perform : QueuedOrder → State → State × Reply) (s : State) : State :=
  takeUp code (fun o u => let (u1, reply) := perform o u; send o reply u1.draw) s

/-- The engine carries out an order that answers in one record (R152). -/
def carryOut (code : Nat) (perform : QueuedOrder → State → State × Reply) (s : State) : State :=
  carryOutBy answer code perform s

/-- The engine carries out an order whose reply may have several records, and places the first `n` of them;
with such an order already carried out it places the next `n` (R152; log 26). -/
def carryOutUpTo (n : Nat) (code : Nat) (perform : QueuedOrder → State → State × Reply) (s : State) : State :=
  match s.orders.engine with
  | .placing o next rest => if o.code = code then sendUpTo n o (next :: rest) s else s
  | .idle => s
  | .executing _ => carryOutBy (answerUpTo n) code perform s
  | .settling _ _ => s
  | .restarting _ _ => s
  | .replying _ _ _ => s

end Sys2Proof.Machine
end

