-- ==== Sys2Proof/Machine/TrunkCommands.lean ====
section
/-! DEFINITION. The meanings of POWER_ON_RESET and of the commands that trunk bits bring: candidate match,
boundary comparison, order marker, order frame, minor frame, waiting frame. -/

namespace Sys2Proof.Machine

/-- What every meaning answers with. -/
abbrev Result := Host.Outcome State Fault Refusal

/-- A link released from power-on reset with its ready line at a level (R117, R131). -/
def LinkTx.released (ready : Bool) : LinkTx := if ready then LinkTx.powerOn.goUp else LinkTx.powerOn

/-- POWER_ON_RESET (R18, R38, R61, R131, R133, R143): every block at its power-on state; the ready lines
are at the given levels at the release. -/
def execPowerOnReset (ready0 ready1 : Bool) (s : State) : Result :=
  .next { State.reset with
    links := #v[LinkTx.released ready0, LinkTx.released ready1], draws := s.draws, pending := s.pending }

/-- Whether a candidate of `len` bits at bit `start` can be decided now in OFF or SEARCH: it begins at or
after the resume point, no order frame is in reception, and its last bit is not one already past (R6,
R12, R13). -/
def Receiver.candidateOpen (x : Receiver) (start len : Nat) : Bool :=
  x.order.isNone && decide (x.resume ≤ start) && decide (x.arrived ≤ start + len)

/-- Whether an order marker is complete at the bit before `next`, `bits` being the 48 bits that end there: the
32 lowest are the marker, and it began at or after the resume point (R12). -/
def Receiver.markerComplete (x : Receiver) (next : Nat) (bits : Window) : Bool :=
  bits.extractLsb' 0 32 == Config.orderMarker && decide (x.resume + 32 ≤ next)

/-- SYNC_CANDIDATE_MATCH (R3, R6): a candidate of a trunk in SEARCH is decided at its last bit; a match takes
the trunk to VERIFY or LOCKED, a miss leaves it in SEARCH, and so does an order marker complete at the same
bit, which is taken in the candidate's place (R6, R12) and comes as ORDER_MARKER_MATCH. -/
def syncCandidate (t : Trunk) (start : Nat) (bits : Window) (s : State) : State :=
  let x := s.receiver t
  let next := start + x.profile.patternBits
  if x.sync = .search ∧ x.candidateOpen start x.profile.patternBits = true then
    if syncMatches x.profile (bits <<< (48 - x.profile.patternBits)) && !x.markerComplete next bits then
      changeReceiver t ((x.seen next).candidateStep start) s
    else s.setReceiver t (x.seen next)
  else s

/-- The meaning of SYNC_CANDIDATE_MATCH. -/
def execSyncCandidateMatch (t : Trunk) (start : Nat) (bits : Window) (s : State) : Result :=
  .next (syncCandidate t start bits s)

/-- Whether the trunk compares at its expected boundary now: a boundary state, the frame before it
delivered, no order frame in reception (R4, R13). -/
def Receiver.boundaryOpen (x : Receiver) : Bool := x.sync.atBoundary && x.order.isNone && x.frame.isNone

/-- The receiver after the comparison of `bits` at boundary `e`: the bits up to the deciding one have
arrived (R12), and the synchronizer has moved as R7 to R9 give. -/
def Receiver.compared (x : Receiver) (e : Nat) (bits : Window) : Receiver :=
  (x.seen (e + max x.profile.patternBits (markerDeparture bits))).boundaryStep e (syncMatches x.profile bits)

/-- EXPECTED_BOUNDARY_COMPARISON (R4, R7 to R9, R11, R12, R17). Bits that are the order marker are no hit
and no miss. -/
def boundaryComparison (t : Trunk) (bits : Window) (s : State) : State :=
  let x := s.receiver t
  match x.boundary with
  | none => s
  | some e =>
    if x.boundaryOpen && !startsWithMarker bits then
      let y := x.compared e bits
      let s1 := changeReceiver t y s
      if y.sync = .search then trackerEnded t s1 else s1
    else s

/-- The meaning of EXPECTED_BOUNDARY_COMPARISON. -/
def execExpectedBoundaryComparison (t : Trunk) (bits : Window) (s : State) : Result :=
  .next (boundaryComparison t bits s)

/-- Whether the order marker is sought at bit `start` now (R12). -/
def Receiver.markerOpen (x : Receiver) (start : Nat) : Bool :=
  if x.sync.atBoundary then x.boundaryOpen && x.boundary == some start else x.candidateOpen start 32

/-- ORDER_MARKER_MATCH (R12, R13): an order frame is opened; the synchronizer's state and counts stay. -/
def markerMatch (t : Trunk) (start : Nat) (bits : BitVec 32) (s : State) : State :=
  let x := s.receiver t
  if x.markerOpen start && bits == Config.orderMarker then
    s.setReceiver t { x.seen (start + 32) with order := some start }
  else s

/-- The meaning of ORDER_MARKER_MATCH. -/
def execOrderMarkerMatch (t : Trunk) (start : Nat) (bits : BitVec 32) (s : State) : Result :=
  .next (markerMatch t start bits s)

/-- The receiver after the last bit of an order frame, `last` being the bit after it (R13). -/
def Receiver.orderEnded (x : Receiver) (last : Nat) : Receiver :=
  if x.sync.atBoundary then { x.seen last with order := none, boundary := some last }
  else { x.seen last with order := none, resume := last }

/-- The last bit of the order frame in reception on one trunk (R13, R14, R144 to R148). -/
def orderFrame (t : Trunk) (w : OrderFrame) (s : State) : State :=
  let x := s.receiver t
  match x.order with
  | none => s
  | some m =>
    if w.body.length = bodyCountOf w.control then
      let s1 := s.setReceiver t (x.orderEnded (m + 16 * (w.body.length + 5)))
      if crcOf (w.header :: w.control :: w.body) = w.check then
        handOrder { trunk := t, header := w.header, control := w.control, body := w.body }
          (s1.onCounters t (fun c => { c with taken := bump c.taken }))
      else s1.onCounters t (fun c => { c with rejected := bump c.rejected })
    else s

/-- ORDER_FRAME_RECEIVED: order frames that complete at the same time are taken one after another, the lower
trunk number first, each against the queue as those before it have left it (R147). -/
def orderFrames (frames : Vector (Option OrderFrame) 4) (s : State) : State :=
  trunkList.foldl
    (fun u t => match pick frames t with
      | none => u
      | some w => orderFrame t w u) s

/-- The meaning of ORDER_FRAME_RECEIVED. -/
def execOrderFrameReceived (t : Trunk) (header control : Word) (body : List Word) (check : Word) (s : State)
    (others : Vector (Option OrderFrame) 4 := Vector.replicate 4 none) : Result :=
  .next (orderFrames (completedFrames t header control body check others) s)

/-- The counters after one delivered frame (R10). -/
def TrunkCounters.delivery (c : TrunkCounters) (mark : Bool) : TrunkCounters :=
  { c with
    delivered := bump c.delivered
    flywheel := if mark then bump c.flywheel else c.flywheel }

/-- The W low bits of a word (R10: each word is W bits wide). -/
def frameWordBits (width : Nat) (w : Word) : Word := BitVec.ofNat 16 (w.toNat % 2 ^ width)

/-- MINOR_FRAME_DELIVERED (R10): the frame in collection, if its N words are given, is counted and reaches
the source tracker. A marked frame counts as a flywheel frame too, also when the tracker then discards it:
that R175's "no other counter" leaves that count standing is the model's choice (log 27). -/
def minorFrame (t : Trunk) (words : List Word) (s : State) : State :=
  let x := s.receiver t
  match x.frame with
  | none => s
  | some c =>
    if words.length = x.profile.words then
      trackerFrame t (words.map (frameWordBits x.profile.width)) c.mark
        (s.setReceiver t
          { x.seen (c.start + x.profile.frameBits) with frame := none, counters := x.counters.delivery c.mark })
    else s

/-- The meaning of MINOR_FRAME_DELIVERED. -/
def execMinorFrameDelivered (t : Trunk) (words : List Word) (s : State) : Result :=
  .next (minorFrame t words s)

/-- WAITING_FRAME_PROCESSED (R175): once RESTART has set the rows, the first waiting frame is processed,
and a delivery-ended signal behind it handled. -/
def waitingFrame (t : Trunk) (s : State) : State :=
  if s.held t then s
  else
    match (s.tracker t).waiting with
    | [] => s
    | .deliveryEnded :: rest => takeSignals t rest (endDelivery t .traffic (s.setWaiting t rest))
    | .frame words mark :: rest => takeSignals t rest (processFrame t words mark (s.setWaiting t rest))

/-- The meaning of WAITING_FRAME_PROCESSED. -/
def execWaitingFrameProcessed (t : Trunk) (s : State) : Result := .next (waitingFrame t s)

end Sys2Proof.Machine
end

