-- ==== Sys2Proof/Machine/LinkCommands.lean ====
section
/-! DEFINITION. The meanings of the commands that reach a link transmitter (chapter 7), of ROOM_NOTICE
(R153), and the passing of one unit of time. -/

namespace Sys2Proof.Machine

/-- LINK_UP (R117): ready goes active while the link is DOWN. -/
def linkUp (l : Link) (s : State) : State :=
  if (s.link l).state = .down then s.setLink l (s.link l).goUp else s

/-- The meaning of LINK_UP. -/
def execLinkUp (l : Link) (s : State) : Result := .next (linkUp l s)

/-- LINK_DOWN (R118): ready goes inactive; an engine that waits on the control lane is set free (R126). -/
def linkDown (l : Link) (s : State) : State :=
  if (s.link l).state = .down then s else giveNotice l .leftUp (s.setLink l (s.link l).goDown)

/-- The meaning of LINK_DOWN. -/
def execLinkDown (l : Link) (s : State) : Result := .next (linkDown l s)

/-- The meaning of CREDIT_RETURN (R119). -/
def execCreditReturn (l : Link) (s : State) : Result := .next (s.setLink l (s.link l).credit)

/-- The meaning of STALL_TIMER_EXPIRY (R121). -/
def execStallTimerExpiry (l : Link) (s : State) : Result := .next (expireTimer l s)

/-- RECORD_SENT (R129): a control record that leaves gives the room notice. -/
def recordSent (l : Link) (s : State) : State :=
  match (s.link l).sending with
  | none => s
  | some .sample => s.setLink l (s.link l).sent
  | some .control => giveNotice l .departed (s.setLink l (s.link l).sent)

/-- The meaning of RECORD_SENT. -/
def execRecordSent (l : Link) (s : State) : Result := .next (recordSent l s)

/-- ROOM_NOTICE (R153): the engine places the held record again, or discards it when the notice is of the
link leaving UP, and goes on with up to `n` of the records after it (log 26). -/
def takeNotice (n : Nat) (s : State) : State :=
  match s.orders.engine, s.orders.notice with
  | .replying o held rest, some notice =>
    let final := (held :: rest).getLast?.getD []
    let s1 := s.setOrders { s.orders with notice := none }
    match notice with
    | .departed => placeReplies o final (rest.drop n) (held :: rest.take n) s1
    | .leftUp => placeReplies o final (rest.drop n) (rest.take n) s1
  | _, _ => s

/-- The meaning of ROOM_NOTICE. -/
def execRoomNotice (s : State) (records : Nat := 63) : Result := .next (takeNotice records s)

/-! ### Time (R120, R121) -/

/-- Whether the timer of link `l` has run out. -/
def timerOut (s : State) (l : Link) : Bool := (s.link l).timer == some 0

/-- One unit of 4 ms passes: running stall timers count down, and those that reach 0 expire. When both
do, the free value of Config says which is first (log 7, log 8). -/
def passUnit (s : State) : State :=
  let s1 := (s.setLink 0 (s.link 0).countDown).setLink 1 (s.link 1).countDown
  if timerOut s1 0 && timerOut s1 1 then
    if Config.linkZeroExpiresFirst s1.draws then (expireTimer 1 (expireTimer 0 s1)).draw
    else (expireTimer 0 (expireTimer 1 s1)).draw
  else if timerOut s1 0 then expireTimer 0 s1
  else if timerOut s1 1 then expireTimer 1 s1
  else s1

end Sys2Proof.Machine
end

