-- ==== Sys2Proof/Machine/SourceOrders.lean ====
section
/-! DEFINITION. ECHO and the unknown order, and the orders on trunks and sources: SET_TRUNK, BIND_SOURCE,
UNBIND_SOURCE (sections 10.2 and 10.3). -/

namespace Sys2Proof.Machine

/-! ### Unknown code and ECHO -/

/-- UNKNOWN_ORDER (R150): an order whose code names no order is answered with one record, whatever its tag
(R149 treats it as read-only). The manual states no detail word: a free value (log 10). -/
def unknownOrder (s : State) : State :=
  match s.orders.engine with
  | .executing o =>
    if knownCode o.code then s
    else answer o (Reply.one .unknownOrder (Config.unknownOrderDetail s.draws) []) s.draw
  | .idle => s
  | .settling _ _ => s
  | .restarting _ _ => s
  | .placing _ _ _ => s
  | .replying _ _ _ => s

/-- The meaning of UNKNOWN_ORDER. -/
def execUnknownOrder (s : State) : Result := .next (unknownOrder s)

/-- ECHO (R159). -/
def echoOrder (o : QueuedOrder) (s : State) : State × Reply :=
  (s, Reply.one .ok Config.partCode (Config.revision :: o.body))

/-- The meaning of ECHO. -/
def execEcho (s : State) : Result := .next (carryOut 0x00 echoOrder s)

/-! ### Orders that begin with the switch control's part (R71) -/

/-- The next `n` steps of an order are made: the switch control handles the formats `left` one by one, with
the order's cause (R71), and then comes the order's last effect, `finish`, with its reply. Steps not made are
left to later commands, and a frame of a row concerned may fall between any two (R97; log 25). -/
def runSettling (cause : SwitchCause) (finish : QueuedOrder → State → State × Reply) (o : QueuedOrder) :
    Nat → List Slot → State → State
  | 0, left, s => s.setEngine (.settling o left)
  | _ + 1, [], s => let (s1, reply) := finish o s; answer o reply s1.draw
  | n + 1, f :: rest, s => runSettling cause finish o n rest (settleFormat cause s f)

/-- The engine carries out the next `n` steps of an order whose own checks are `check`: a refusal, or the formats
concerned, which the switch control handles in format slot order (R71). -/
def carryOutSettling (n code : Nat) (cause : SwitchCause)
    (check : QueuedOrder → State → Except Reply (List Slot)) (finish : QueuedOrder → State → State × Reply)
    (s : State) : State :=
  match s.orders.engine with
  | .executing _ =>
    takeUp code (fun o u =>
      match check o u with
      | .error reply => answer o reply u.draw
      | .ok fs => runSettling cause finish o n (slotList.filter (fun f => fs.contains f)) u) s
  | .settling o left => if o.code = code then runSettling cause finish o n left s else s
  | .idle => s
  | .restarting _ _ => s
  | .placing _ _ _ => s
  | .replying _ _ _ => s

/-! ### Positions (R65) -/

/-- The detail of the first position of a bank that does not fit a trunk's frame, if any: 0FFFFH for the ID
position, else the slot map index (R65). -/
def positionFailure (p : Profile) (b : Bank) : Option Word :=
  match b.header with
  | none => none
  | some h =>
    if 1 < h.length ∧ ¬ (within h.idPos (p.syncWords + 1) p.words = true ∧ h.idPos ≠ p.tagPos) then some 0xFFFF
    else
      (firstFailing
        (fun e => within e.pos (p.syncWords + 1) p.words && (p.tagPos == 0 || e.pos != p.tagPos) &&
          (h.length ≤ 1 || e.pos != h.idPos)) 0 b.slots).map numWord

/-! ### SET_TRUNK -/

/-- The profile that SET_TRUNK carries. -/
def profileOf (o : QueuedOrder) : Profile :=
  { enable := o.arg 1 == 1, width := o.arg 2, words := o.arg 3, syncWords := o.arg 4,
    pattern := o.word 5 ++ o.word 6 ++ o.word 7, tolerance := o.arg 8, verify := o.arg 9,
    flywheel := o.arg 10, tagPos := o.arg 11 }

/-- The words of SET_TRUNK with whether each is in range; the pattern is one item at word 5 (R160 (1)). -/
def setTrunkRanges (o : QueuedOrder) : List (Nat × Bool) :=
  let p := profileOf o
  [ (0, within (o.arg 0) 0 3), (1, within (o.arg 1) 0 1), (2, within p.width 8 16), (3, within p.words 4 1024),
    (4, within p.syncWords 1 4 && decide (p.syncWords < p.words) && within p.patternBits 16 48),
    (5, decide (p.pattern.toNat < 2 ^ p.patternBits)), (8, within p.tolerance 0 7), (9, within p.verify 1 8),
    (10, within p.flywheel 1 16), (11, p.tagPos == 0 || within p.tagPos (p.syncWords + 1) p.words) ]

/-- The word index of the first word out of range. -/
def rangeFailure (rs : List (Nat × Bool)) : Option Nat := (rs.find? (fun x => !x.2)).map (fun x => x.1)

/-- The lowest occupied row among rows 1 to 3, when the new profile is untagged (R160 (2)). -/
def untaggedFailure (t : Trunk) (p : Profile) (s : State) : Option RowIx :=
  if p.tagPos = 0 then ([1, 2, 3] : List RowIx).find? (fun r => (s.row t r).isSome) else none

/-- The banks of a format slot that must fit its trunk: a COMMITTED active bank, then an ARMED standby
(R160 (3)). -/
def banksInUse (x : FormatSlot) : List (BankId × Bank) :=
  [(x.active, x.activeBank)] ++ (if x.standby = .armed then [(x.active.other, x.standbyBank)] else [])

/-- The format slots bound to the occupied rows of a trunk, row 0 to row 3. -/
def formatsOnTrunk (t : Trunk) (s : State) : List Slot :=
  rowList.filterMap (fun r => (s.row t r).map (fun x => x.format))

/-- The first bank in use on a trunk that does not fit a profile: detail, format slot and bank letter
(R160 (3)). -/
def trunkPositionFailure (t : Trunk) (p : Profile) (s : State) : Option (Word × Slot × BankId) :=
  (formatsOnTrunk t s).findSome? (fun f =>
    (banksInUse (s.format f)).findSome? (fun x => (positionFailure p x.2).map (fun d => (d, f, x.1))))

/-- The trunk that SET_TRUNK names, where its words are in range and no row keeps a tag that the new profile has no
word for (R160 (1) and (2)). -/
def setTrunkTarget (o : QueuedOrder) (s : State) : Except Reply Trunk :=
  match rangeFailure (setTrunkRanges o), trunkOf (o.arg 0) with
  | some i, _ => .error (Reply.one .badArgument (numWord i) [])
  | none, none => .error (Reply.one .badArgument 0 [])
  | none, some t =>
    match untaggedFailure t (profileOf o) s with
    | some r => .error (Reply.one .inUse (numWord r.val) [])
    | none => .ok t

/-- The checks of SET_TRUNK in order, and the formats concerned (R160, R71 (2)). -/
def setTrunkCheck (o : QueuedOrder) (s : State) : Except Reply (List Slot) :=
  match setTrunkTarget o s with
  | .error reply => .error reply
  | .ok t =>
    match trunkPositionFailure t (profileOf o) s with
    | some (d, f, letter) => .error (Reply.one .positionConflict d [numWord f.val, numWord letter.letter])
    | none => .ok (formatsOnTrunk t s)

/-- The last effect of SET_TRUNK: the trunk, of which `arrived` bits have arrived, is reinitialized with the
new profile (R161 (2) and (3)). The trunk was found when the order began, and no other order fills a row or
changes the words meanwhile, so no run from reset is refused here (log 22). -/
def setTrunkFinish (arrived : Nat) (o : QueuedOrder) (s : State) : State × Reply :=
  match setTrunkTarget o s with
  | .error reply => (s, reply)
  | .ok t =>
    let s1 := reinitTrunk t (profileOf o) arrived s
    (s1, Reply.one .ok (numWord t.val) [numWord (s1.receiver t).sync.number])

/-- The meaning of SET_TRUNK. -/
def execSetTrunk (s : State) (arrived : Nat := 0) (steps : Nat := 5) : Result :=
  .next (carryOutSettling steps 0x01 .order setTrunkCheck (setTrunkFinish arrived) s)

/-! ### BIND_SOURCE -/

/-- The row as BIND_SOURCE makes it (R22). -/
def boundRowOf (tag : Option Nat) (f : Slot) (committed : Bool) : Row :=
  { tag := tag, format := f, cycle := if committed then .search else .unformatted, expected := 0, check := 0,
    miss := 0, current := 0, cycleCount := 0, losses := 0, mismatches := 0, broken := 0 }

/-- Another row of the trunk with the tag value (R162 (5)). -/
def tagHolder (t : Trunk) (r : RowIx) (v : Nat) (s : State) : Option RowIx :=
  rowList.find? (fun q => q != r && hasTag v (s.row t q))

/-- BIND_SOURCE on a row and format slot that exist, after its range checks (R162 (2) to (7)). -/
def bindTo (t : Trunk) (r : RowIx) (f : Slot) (tag : Nat) (s : State) : State × Reply :=
  let p := (s.receiver t).profile
  if p.tagPos = 0 ∧ r ≠ 0 then (s, Reply.one .badArgument 1 [])
  else if p.tagPos ≠ 0 ∧ 2 ^ p.width ≤ tag then (s, Reply.one .badArgument 3 [])
  else
    match s.row t r with
    | some x => (s, Reply.one .sourceOccupied (numWord x.format.val) [])
    | none =>
      match (if p.tagPos = 0 then none else tagHolder t r tag s), s.boundRow f with
      | some q, _ => (s, Reply.one .tagInUse (numWord q.val) [])
      | none, some (t', r') => (s, Reply.one .formatInUse (numWord (t'.val * 4 + r'.val)) [])
      | none, none =>
        match positionFailure p (s.activeBank f) with
        | some d => (s, Reply.one .positionConflict d [])
        | none =>
          let x := boundRowOf (if p.tagPos = 0 then none else some tag) f (s.activeBank f).committed
          (s.setRow t r (some x), Reply.one .ok (numWord f.val) [numWord x.cycle.number])

/-- BIND_SOURCE (R162). -/
def bindSourceOrder (o : QueuedOrder) (s : State) : State × Reply :=
  match trunkOf (o.arg 0), rowOf (o.arg 1), slotOf (o.arg 2) with
  | none, _, _ => (s, Reply.one .badArgument 0 [])
  | some _, none, _ => (s, Reply.one .badArgument 1 [])
  | some _, some _, none => (s, Reply.one .badArgument 2 [])
  | some t, some r, some f => bindTo t r f (o.arg 3) s

/-- The meaning of BIND_SOURCE. -/
def execBindSource (s : State) : Result := .next (carryOut 0x02 bindSourceOrder s)

/-! ### UNBIND_SOURCE -/

/-- The checks of UNBIND_SOURCE in order, and the occupied row that it names (R163). -/
def unbindTarget (o : QueuedOrder) (s : State) : Except Reply (Trunk × RowIx × Row) :=
  match trunkOf (o.arg 0), rowOf (o.arg 1) with
  | none, _ => .error (Reply.one .badArgument 0 [])
  | some _, none => .error (Reply.one .badArgument 1 [])
  | some t, some r =>
    match s.row t r with
    | none => .error (Reply.one .sourceVacant 0 [])
    | some x => .ok (t, r, x)

/-- The format that UNBIND_SOURCE concerns (R71 (1)). -/
def unbindCheck (o : QueuedOrder) (s : State) : Except Reply (List Slot) :=
  (unbindTarget o s).map (fun x => [x.2.2.format])

/-- The last effect of UNBIND_SOURCE: the contexts are broken uncounted and the row becomes vacant (R23, R96).
The row was found when the order began, and no other order makes it vacant meanwhile (log 22). -/
def unbindFinish (o : QueuedOrder) (s : State) : State × Reply :=
  match unbindTarget o s with
  | .error reply => (s, reply)
  | .ok (t, r, x) =>
    ((breakContexts x.format s).setRow t r none, Reply.one .ok (numWord x.format.val) [])

/-- The meaning of UNBIND_SOURCE. -/
def execUnbindSource (s : State) (steps : Nat := 2) : Result :=
  .next (carryOutSettling steps 0x03 .unbind unbindCheck unbindFinish s)

end Sys2Proof.Machine
end

