-- ==== Sys2Proof/Machine/StagingOrders.lean ====
section
/-! DEFINITION. The orders that build and empty a standby bank: STAGE_HEADER, STAGE_SLOTS, STAGE_PARAMS,
DISCARD_STAGE (sections 3.3 to 3.5). -/

namespace Sys2Proof.Machine

/-! ### The standby bank and the pool -/

/-- The format slot with another content in its standby bank and another standby state. -/
def FormatSlot.withStandby (x : FormatSlot) (b : Bank) (st : Standby) : FormatSlot :=
  { x.setBank x.active.other b with standby := st }

/-- The standby of a format slot is emptied: its entries go back to the pool (R48, R52, R58). -/
def emptyStandby (f : Slot) (st : Standby) (s : State) : State :=
  let x := s.format f
  (s.setFormat f (x.withStandby Bank.empty st)).setFree (s.freeSlots + x.standbyBank.slots.length)
    (s.freeParams + x.standbyBank.params.length)

/-- Whether the standby refuses staging orders and DISCARD_STAGE with PENDING (R51, R58): it is ARMED, or
in FALLBACK while the active bank is on probation. -/
def FormatSlot.isPending (x : FormatSlot) : Bool :=
  x.standby == .armed || (x.standby == .fallback && x.probation.isSome)

/-- Step (3) of R51: the standby is taken into STAGING, a fallback being freed first (R52). -/
def openStaging (f : Slot) (s : State) : State :=
  match (s.format f).standby with
  | .fallback => emptyStandby f .staging s
  | .empty => s.setFormat f { s.format f with standby := .staging }
  | .staging => s
  | .armed => s

/-- The four body words of a staging reply: what the standby holds and the free counts (R57). -/
def stagingBody (f : Slot) (s : State) : List Word :=
  [ numWord (s.format f).standbyBank.slots.length, numWord (s.format f).standbyBank.params.length,
    numWord s.freeSlots, numWord s.freeParams ]

/-- The standby's bank letter as a detail word (R57). -/
def standbyLetter (f : Slot) (s : State) : Word := numWord (s.format f).active.other.letter

/-- The reply to a refused format argument of a staging order (R51, R57). -/
def badFormatStaging (s : State) : Reply :=
  Reply.one .badArgument 0xFFFF [0, 0, numWord s.freeSlots, numWord s.freeParams]

/-- A staging order (R51): the format argument, the PENDING test, the opening, then the order's own
`content`, which answers with the state it leaves, the status and the detail; the reply of R57. -/
def stagingOrder (content : Slot → State → State × Status × Word) (o : QueuedOrder) (s : State) :
    State × Reply :=
  match slotOf (o.arg 0) with
  | none => (s, badFormatStaging s)
  | some f =>
    if (s.format f).isPending then (s, Reply.one .pending (standbyLetter f s) (stagingBody f s))
    else
      let (s1, status, detail) := content f (openStaging f s)
      (s1, Reply.one status detail (stagingBody f s1))

/-! ### STAGE_HEADER (R53) -/

/-- The standby bank of a format slot is given a content, its state unchanged. -/
def State.setStandbyBank (s : State) (f : Slot) (b : Bank) : State :=
  s.setFormat f ((s.format f).withStandby b (s.format f).standby)

/-- The content of STAGE_HEADER: the fields in order, then the header replaces the standby's (R53). -/
def placeHeader (h : Header) (f : Slot) (s : State) : State × Status × Word :=
  match headerFailure h with
  | some i => (s, .badArgument, numWord i)
  | none =>
    (s.setStandbyBank f { (s.format f).standbyBank with header := some h }, .ok, standbyLetter f s)

/-- The meaning of STAGE_HEADER. -/
def execStageHeader (s : State) : Result :=
  .next (carryOut 0x10 (fun o => stagingOrder (placeHeader (headerOf o)) o) s)

/-! ### STAGE_SLOTS (R44, R45, R54, R56) -/

/-- Whether an entry stands before another in a slot map: by position, interval, offset (R44). -/
def slotBefore (x y : SlotEntry) : Bool :=
  decide (x.pos < y.pos) ||
    (x.pos == y.pos &&
      (decide (x.interval < y.interval) || (x.interval == y.interval && decide (x.offset < y.offset))))

/-- An entry placed into a slot map (R44). -/
def insertSlot (e : SlotEntry) : List SlotEntry → List SlotEntry
  | [] => [e]
  | x :: xs => if slotBefore e x then e :: x :: xs else x :: insertSlot e xs

/-- The overlap test (R45). -/
def overlaps (x y : SlotEntry) : Bool :=
  x.pos == y.pos && x.offset % Nat.gcd x.interval y.interval == y.offset % Nat.gcd x.interval y.interval

/-- The entries of an order are checked one by one, each against the slot map with the entries before it
placed; the answer is the slot map with all of them, or the status and the number of the first that
fails (R54). -/
def addSlots : Nat → List SlotEntry → List (Option SlotEntry) → Except (Status × Nat) (List SlotEntry)
  | _, held, [] => .ok held
  | i, _, none :: _ => .error (.badArgument, i)
  | i, held, some e :: rest =>
    if held.any (overlaps e) then .error (.slotConflict, i) else addSlots (i + 1) (insertSlot e held) rest

/-- The content of STAGE_SLOTS: checks, pool room, placement (R54, R56). -/
def placeSlots (items : List (Option SlotEntry)) (f : Slot) (s : State) : State × Status × Word :=
  let b := (s.format f).standbyBank
  match addSlots 0 b.slots items with
  | .error (status, i) => (s, status, numWord i)
  | .ok slots =>
    if items.length ≤ s.freeSlots then
      ((s.setStandbyBank f { b with slots := slots }).setFree (s.freeSlots - items.length) s.freeParams,
        .ok, standbyLetter f s)
    else (s, .noSpace, numWord s.freeSlots)

/-- The meaning of STAGE_SLOTS. -/
def execStageSlots (s : State) : Result :=
  .next (carryOut 0x11 (fun o => stagingOrder (placeSlots (slotItems o.body.tail)) o) s)

/-! ### STAGE_PARAMS (R47, R55, R56) -/

/-- A definition placed into a parameter list, ascending by number (R47). -/
def insertParam (d : ParamDef) : List ParamDef → List ParamDef
  | [] => [d]
  | x :: xs => if d.number < x.number then d :: x :: xs else x :: insertParam d xs

/-- The definitions of an order are checked one by one, each against the parameter list with the
definitions before it placed (R55). -/
def addParams : Nat → List ParamDef → List (Option ParamDef) → Except (Status × Nat) (List ParamDef)
  | _, held, [] => .ok held
  | i, _, none :: _ => .error (.badArgument, i)
  | i, held, some d :: rest =>
    if held.any (fun x => x.number == d.number) then .error (.paramDuplicate, i)
    else addParams (i + 1) (insertParam d held) rest

/-- The content of STAGE_PARAMS: checks, pool room, placement (R55, R56). -/
def placeParams (items : List (Option ParamDef)) (f : Slot) (s : State) : State × Status × Word :=
  let b := (s.format f).standbyBank
  match addParams 0 b.params items with
  | .error (status, i) => (s, status, numWord i)
  | .ok params =>
    if items.length ≤ s.freeParams then
      ((s.setStandbyBank f { b with params := params }).setFree s.freeSlots (s.freeParams - items.length),
        .ok, standbyLetter f s)
    else (s, .noSpace, numWord s.freeParams)

/-- The meaning of STAGE_PARAMS. -/
def execStageParams (s : State) : Result :=
  .next (carryOut 0x12 (fun o => stagingOrder (placeParams (paramItems o.body.tail)) o) s)

/-! ### DISCARD_STAGE (R58) -/

/-- DISCARD_STAGE on a format slot that exists. -/
def discardStage (f : Slot) (s : State) : State × Reply :=
  if (s.format f).isPending then (s, Reply.one .pending (standbyLetter f s) (stagingBody f s))
  else
    let s1 := if (s.format f).standby = .empty then s else emptyStandby f .empty s
    (s1, Reply.one .ok (standbyLetter f s1) (stagingBody f s1))

/-- DISCARD_STAGE (R58). -/
def discardStageOrder (o : QueuedOrder) (s : State) : State × Reply :=
  match slotOf (o.arg 0) with
  | none => (s, badFormatStaging s)
  | some f => discardStage f s

/-- The meaning of DISCARD_STAGE. -/
def execDiscardStage (s : State) : Result := .next (carryOut 0x13 discardStageOrder s)

end Sys2Proof.Machine
end

