-- ==== Sys2Proof/Machine/CommitOrders.lean ====
section
/-! DEFINITION. COMMIT and CANCEL_COMMIT (section 4.2). -/

namespace Sys2Proof.Machine

/-! ### The checks of COMMIT (R64 to R66) -/

/-- Whether the slot entries that name a definition are complete (R64 (4)); `m` is the header's M. -/
def piecesComplete (m : Nat) (slots : List SlotEntry) (d : ParamDef) : Bool :=
  let named := slots.filter (fun e => e.param == d.number)
  if d.pieces = 1 then named.all (fun e => e.piece == 0)
  else
    named.isEmpty ||
      (named.all (fun e => decide (e.piece < d.pieces) && e.interval == m) &&
        (List.range d.pieces).all (fun i => named.countP (fun e => e.piece == i) == 1))

/-- A failed check of COMMIT: status, detail, number of the check, and the other format slot (R63). -/
structure CommitFailure where
  status : Status
  detail : Word
  check  : Nat
  other  : Nat
  deriving DecidableEq, Repr

/-- Checks (1) to (4): completeness (R64). -/
def incomplete (b : Bank) : Option CommitFailure :=
  let fails (check : Nat) (detail : Word) : CommitFailure :=
    { status := .incomplete, detail := detail, check := check, other := 0 }
  match b.header with
  | none => some (fails 1 0xFFFF)
  | some h =>
    match firstFailing (fun e => h.length % e.interval == 0) 0 b.slots with
    | some i => some (fails 2 (numWord i))
    | none =>
      match firstFailing (fun e => (b.definition? e.param).isSome) 0 b.slots with
      | some i => some (fails 3 (numWord i))
      | none =>
        match firstFailing (piecesComplete h.length b.slots) 0 b.params with
        | some i => some (fails 4 (numWord i))
        | none => none

/-- Check (5): the positions against the trunk of the bound row (R65). -/
def misplaced (f : Slot) (b : Bank) (s : State) : Option CommitFailure :=
  match s.boundRow f with
  | none => none
  | some (t, _) =>
    (positionFailure (s.receiver t).profile b).map
      (fun d => { status := .positionConflict, detail := d, check := 5, other := 0 })

/-- The banks of a format slot that hold parameter numbers against other formats: the active bank, and a
standby that is ARMED, or in FALLBACK on probation (R66). -/
def FormatSlot.claims (x : FormatSlot) (number : Nat) : Bool :=
  (x.activeBank.definition? number).isSome ||
    ((x.standby == .armed || (x.standby == .fallback && x.probation.isSome)) &&
      (x.standbyBank.definition? number).isSome)

/-- Another format slot that claims a parameter number (R66). -/
def claimant (f : Slot) (s : State) (number : Nat) : Option Slot :=
  slotList.find? (fun g => g != f && (s.format g).claims number)

/-- Check (6): no parameter number in use in another format (R66). -/
def clashing (f : Slot) (b : Bank) (s : State) : Option CommitFailure :=
  match firstFailing (fun d => (claimant f s d.number).isNone) 0 b.params with
  | none => none
  | some i =>
    some
      { status := .paramClash, detail := numWord i, check := 6,
        other := match (b.params[i]?).bind (fun d => claimant f s d.number) with
          | none => 0
          | some g => g.val }

/-- The first check of COMMIT that fails (R63 to R66). -/
def commitFailure (f : Slot) (b : Bank) (s : State) : Option CommitFailure :=
  match incomplete b with
  | some x => some x
  | none =>
    match misplaced f b s with
    | some x => some x
    | none => clashing f b s

/-! ### COMMIT -/

/-- Whether a format slot is bound to a row in CYCLE_LOCKED (R67). -/
def boundLocked (f : Slot) (s : State) : Bool :=
  match s.boundRow f with
  | none => false
  | some (t, r) =>
    match s.row t r with
    | none => false
    | some x => x.cycle == .locked

/-- A COMMIT that passes every check (R67). -/
def applyCommit (f : Slot) (s : State) : State × Reply :=
  let letter := standbyLetter f s
  if boundLocked f s then
    (s.setFormat f { s.format f with standby := .armed }, Reply.one .armed letter [0, 0])
  else (switchFormat f .immediate s, Reply.one .switched letter [0, 0])

/-- COMMIT on a format slot that exists (R63 to R67). -/
def commitFormat (f : Slot) (s : State) : State × Reply :=
  match (s.format f).standby with
  | .armed => (s, Reply.one .pending (standbyLetter f s) [0, 0])
  | .empty => (s, Reply.one .notStaged (standbyLetter f s) [0, 0])
  | .fallback => (s, Reply.one .notStaged (standbyLetter f s) [0, 0])
  | .staging =>
    match commitFailure f (s.format f).standbyBank s with
    | some x => (s, Reply.one x.status x.detail [numWord x.check, numWord x.other])
    | none => applyCommit f s

/-- COMMIT (R63). -/
def commitOrder (o : QueuedOrder) (s : State) : State × Reply :=
  match slotOf (o.arg 0) with
  | none => (s, Reply.one .badArgument 0xFFFF [0, 0])
  | some f => commitFormat f s

/-- The meaning of COMMIT. -/
def execCommit (s : State) : Result := .next (carryOut 0x14 commitOrder s)

/-! ### CANCEL_COMMIT -/

/-- CANCEL_COMMIT (R68). -/
def cancelCommitOrder (o : QueuedOrder) (s : State) : State × Reply :=
  match slotOf (o.arg 0) with
  | none => (s, Reply.one .badArgument 0xFFFF [])
  | some f =>
    if (s.format f).standby = .armed then
      (s.setFormat f { s.format f with standby := .staging }, Reply.one .ok (standbyLetter f s) [])
    else (s, Reply.one .notStaged (standbyLetter f s) [])

/-- The meaning of CANCEL_COMMIT. -/
def execCancelCommit (s : State) : Result := .next (carryOut 0x15 cancelCommitOrder s)

end Sys2Proof.Machine
end

