-- ==== Sys2Proof/Machine/ParamOrders.lean ====
section
/-! DEFINITION. The orders on parameters and banks: TUNE_PARAM, READ_PARAM, READ_BANK (section 10.5). -/

namespace Sys2Proof.Machine

/-- The format slot whose active bank defines a parameter number (R80: at most one does). -/
def definingSlot (number : Nat) (s : State) : Option Slot :=
  slotList.find? (fun f => ((s.activeBank f).definition? number).isSome)

/-! ### TUNE_PARAM -/

/-- A definition with the tuned fields (R80). -/
def ParamDef.tuned (d : ParamDef) (x : TunedFields) : ParamDef :=
  { d with link := x.link, emission := x.emission, limits := x.limits }

/-- A bank with one definition replaced in place. -/
def Bank.replaceParam (b : Bank) (d : ParamDef) : Bank :=
  { b with params := b.params.map (fun x => if x.number = d.number then d else x) }

/-- An accepted TUNE_PARAM: the definition is edited in the active bank and the runtime adjusted (R80,
R111). -/
def applyTune (f : Slot) (old new : ParamDef) (s : State) : State :=
  let x := s.format f
  let s1 := s.setFormat f (x.setBank x.active (x.activeBank.replaceParam new))
  match s.runtime? f old.number with
  | none => s1
  | some rt => s1.setRuntime f old.number (adjustTuned old new rt)

/-- TUNE_PARAM (R165). -/
def tuneParamOrder (o : QueuedOrder) (s : State) : State × Reply :=
  let number := definedNumber (o.word 0)
  match definingSlot number s with
  | none => (s, Reply.one .notDefined (numWord number) [])
  | some f =>
    match (s.activeBank f).definition? number with
    | none => (s, Reply.one .notDefined (numWord number) [])
    | some d =>
      match tunedFieldsOf d.signed (o.word 1) (o.word 2) (o.word 3) (o.word 4) (o.word 5) with
      | .error i => (s, Reply.one .badArgument (numWord i) [])
      | .ok x =>
        (applyTune f d (d.tuned x) s,
          Reply.one .ok (numWord f.val) [numWord (s.format f).active.letter])

/-- The meaning of TUNE_PARAM. -/
def execTuneParam (s : State) : Result := .next (carryOut 0x20 tuneParamOrder s)

/-! ### READ_PARAM -/

/-- The value width reported (R113 (2)). -/
def reportedWidth (f : Slot) (d : ParamDef) (rt : Runtime) (s : State) : Nat :=
  match rt.latest, s.boundRow f with
  | some v, _ => v.width
  | none, some (t, _) => d.pieces * (s.receiver t).profile.width
  | none, none => 0

/-- The limit items of READ_PARAM word 6, 0 when the limits part is absent (R166). -/
def limitWord (d : ParamDef) (rt : Runtime) : Word :=
  if d.limits.isSome then
    (BitVec.ofNat 4 rt.limit.number ++ BitVec.ofNat 4 (candidateNumber rt.candidate) ++
      BitVec.ofNat 8 rt.run : BitVec 16)
  else 0

/-- READ_PARAM word 4: latest value present, and its flywheel mark (R166). -/
def latestFlags (l : Option Latest) : Word :=
  match l with
  | none => 0
  | some v => (BitVec.ofNat 8 1 ++ BitVec.ofNat 8 (if v.mark then 1 else 0) : BitVec 16)

/-- The 23-word body of READ_PARAM (R113, R166). -/
def readParamBody (f : Slot) (d : ParamDef) (rt : Runtime) (s : State) : List Word :=
  [ numWord f.val, numWord (s.format f).active.letter, numWord (reportedWidth f d rt s), boolWord d.signed,
    latestFlags rt.latest, boolWord d.limits.isSome, limitWord d rt, numWord d.emission.number,
    numWord rt.nth, boolWord rt.emitted.isSome ] ++
  countWords rt.samples ++
  countWords (match rt.latest with | none => 0 | some v => v.cycleCount) ++
  [numWord (match rt.latest with | none => 0 | some v => v.frame)] ++
  valueWords 4 (match rt.latest with | none => 0 | some v => v.value) ++
  valueWords 4 (rt.emitted.getD 0)

/-- READ_PARAM (R166). -/
def readParamOrder (o : QueuedOrder) (s : State) : State × Reply :=
  let number := o.arg 0
  if 4095 < number then (s, Reply.one .badArgument 0 [])
  else
    match definingSlot number s with
    | none => (s, Reply.one .notDefined (numWord number) [])
    | some f =>
      match (s.activeBank f).definition? number, s.runtime? f number with
      | some d, some rt => (s, Reply.one .ok (numWord number) (readParamBody f d rt s))
      | _, _ => (s, Reply.one .notDefined (numWord number) [])

/-- The meaning of READ_PARAM. -/
def execReadParam (s : State) : Result := .next (carryOut 0x21 readParamOrder s)

/-! ### READ_BANK -/

/-- The words of READ_BANK with whether each is in range; for the header words 3 and 4 are not examined
(R167). -/
def readBankRanges (o : QueuedOrder) : List (Nat × Bool) :=
  [ (0, within (o.arg 0) 0 7), (1, within (o.arg 1) 0 1), (2, within (o.arg 2) 0 2),
    (3, o.arg 2 == 0 || within (o.arg 3) 0 4095),
    (4, o.arg 2 == 0 || within (o.arg 4) 1 (if o.arg 2 = 1 then 1152 else 256)) ]

/-- A list cut into pieces of `n` items, each with the index of its first item counted from `i`; `fuel`
bounds the number of pieces (R152: at most 64 records). -/
def piecesOf {α : Type} (n : Nat) : Nat → Nat → List α → List (Nat × List α)
  | 0, _, _ => []
  | _ + 1, _, [] => []
  | fuel + 1, i, x :: xs => (i, (x :: xs).take n) :: piecesOf n fuel (i + n) ((x :: xs).drop n)

/-- The bodies of the records that read a list: two leading words, then up to `n` items (R167). A record
with no item carries a free value for the index of its first item (log 11). -/
def listBodies {α : Type} (n : Nat) (words : α → List Word) (start count draws : Nat) (xs : List α) :
    List (List Word) :=
  match (xs.drop start).take count with
  | [] => [[Config.emptyReadIndex draws, numWord xs.length]]
  | y :: ys =>
    (piecesOf n 64 start (y :: ys)).map
      (fun p => numWord p.1 :: numWord xs.length :: p.2.flatMap words)

/-- The bodies of a READ_BANK of a bank (R167). -/
def readBankBodies (o : QueuedOrder) (draws : Nat) (b : Bank) : List (List Word) :=
  if o.arg 2 = 0 then
    match b.header with
    | none => [[0, 0, 0, 0, 0, 0, 0]]
    | some h => [1 :: headerWords h]
  else if o.arg 2 = 1 then listBodies Config.slotsPerRecord slotEntryWords (o.arg 3) (o.arg 4) draws b.slots
  else listBodies Config.paramsPerRecord paramDefWords (o.arg 3) (o.arg 4) draws b.params

/-- READ_BANK (R167, R168). The records are built when the order is carried out: the content of the bank
cannot change before the last of them is placed (R168; log 17). They are placed one after another, other
commands between them where the sender puts such (log 26). -/
def readBankOrder (o : QueuedOrder) (s : State) : State × Reply :=
  match rangeFailure (readBankRanges o), slotOf (o.arg 0) with
  | some i, _ => (s, Reply.one .badArgument (numWord i) [])
  | none, none => (s, Reply.one .badArgument 0 [])
  | none, some f =>
    let x := s.format f
    let letter := if o.arg 1 = 0 then x.active else x.active.other
    (s, { status := .ok, detail := numWord letter.letter, bodies := readBankBodies o s.draws (x.bank letter) })

/-- The meaning of READ_BANK. -/
def execReadBank (s : State) (records : Nat := 64) : Result :=
  .next (carryOutUpTo records 0x22 readBankOrder s)

end Sys2Proof.Machine
end

