-- ==== Sys2Proof/Machine/StatusOrders.lean ====
section
/-! DEFINITION. READ_STATUS and CLEAR_COUNTERS (section 10.6). -/

namespace Sys2Proof.Machine

/-- The scopes of READ_STATUS and CLEAR_COUNTERS (R169). -/
inductive Scope where
  | part
  | trunk (t : Trunk)
  | link (l : Link)
  | format (f : Slot)
  deriving DecidableEq, Repr

/-- The scope that two words name, or the index of the word that fails (R169). -/
def scopeOf (scope index : Nat) : Except Nat Scope :=
  if scope = 0 then (if index = 0 then .ok .part else .error 1)
  else if scope = 1 then (match trunkOf index with | none => .error 1 | some t => .ok (.trunk t))
  else if scope = 2 then (match linkOf index with | none => .error 1 | some l => .ok (.link l))
  else if scope = 3 then (match slotOf index with | none => .error 1 | some f => .ok (.format f))
  else .error 0

/-! ### READ_STATUS -/

/-- Part scope, 13 words (R169). -/
def partBody (s : State) : List Word :=
  [ numWord s.freeSlots, numWord s.freeParams, numWord s.events.link.val, s.events.enabled.setWidth 16,
    boolWord s.events.shedArmed, s.events.refusalArmed.setWidth 16 ] ++
  countWords s.events.lost ++
  [ s.orders.accept.setWidth 16, numWord s.orders.queue.length, 1, Config.partCode, Config.revision ]

/-- Link scope, 21 words (R130, R169). -/
def linkBody (lk : LinkTx) : List Word :=
  [ numWord lk.state.number, numWord lk.credits, numWord lk.control.length, numWord lk.sample.length,
    numWord (sendingNumber lk.sending), numWord lk.burst, boolWord lk.overrunArmed, numWord lk.stallTime,
    boolWord lk.timer.isSome ] ++
  countWords lk.counters.sampleSent ++ countWords lk.counters.controlSent ++ countWords lk.counters.dropped ++
  countWords lk.counters.sampleFlushed ++ countWords lk.counters.controlFlushed ++ countWords lk.counters.stalls

/-- The profile in the order of SET_TRUNK words 1 to 11 (R170). -/
def profileWords (p : Profile) : List Word :=
  [ boolWord p.enable, numWord p.width, numWord p.words, numWord p.syncWords, p.pattern.extractLsb' 32 16,
    p.pattern.extractLsb' 16 16, p.pattern.extractLsb' 0 16, numWord p.tolerance, numWord p.verify,
    numWord p.flywheel, numWord p.tagPos ]

/-- The eight trunk counters in the order of R15's table. -/
def trunkCounterWords (c : TrunkCounters) : List Word :=
  countWords c.delivered ++ countWords c.flywheel ++ countWords c.syncLosses ++ countWords c.unmatched ++
  countWords c.taken ++ countWords c.rejected ++ countWords c.refused ++ countWords c.shed

/-- Record 0 of trunk scope, 30 words (R170). -/
def receiverBody (x : Receiver) : List Word :=
  profileWords x.profile ++ [numWord x.sync.number, numWord x.hits, numWord x.misses] ++
  trunkCounterWords x.counters

/-- A row's record of trunk scope, 17 words (R170). The tag-value word of a row with no tag value is a free
value (log 12). -/
def rowBody (draws : Nat) (r : RowIx) (x : Option Row) : List Word :=
  match x with
  | none => List.replicate 17 0
  | some x =>
    [ 1, boolWord x.tag.isSome, (match x.tag with | none => Config.absentTagWord draws r | some v => numWord v),
      numWord x.format.val, numWord x.cycle.number, numWord x.expected, numWord x.check, numWord x.miss,
      numWord x.current ] ++
    countWords x.cycleCount ++ countWords x.losses ++ countWords x.mismatches ++ countWords x.broken

/-- The reply-memory row of trunk scope, three words (R156, R170). Of an empty row the manual states the
tag alone: code and status are free values (log 13). -/
def memoryBody (draws : Nat) (m : Option MemoryRow) : List Word :=
  match m with
  | none => [0, Config.emptyMemoryCode draws, Config.emptyMemoryStatus draws]
  | some m => [numWord m.tag, numWord m.code, recordStatus m.record]

/-- The five bodies of trunk scope, one reading (R170). -/
def trunkBodies (t : Trunk) (s : State) : List (List Word) :=
  [ receiverBody (s.receiver t), rowBody s.draws 0 (s.row t 0), rowBody s.draws 1 (s.row t 1),
    rowBody s.draws 2 (s.row t 2),
    rowBody s.draws 3 (s.row t 3) ++ memoryBody s.draws (pick s.orders.memory t) ]

/-- The words of a binding: bound, trunk, row (R170). -/
def bindingWords (x : Option (Trunk × RowIx)) : List Word :=
  match x with
  | none => [0, 0, 0]
  | some (t, r) => [1, numWord t.val, numWord r.val]

/-- The words of a probation: present, remaining count. With none present the manual states no count: a
free value (log 14). -/
def probationWords (draws : Nat) (p : Option Nat) : List Word :=
  match p with
  | none => [0, Config.absentProbationWord draws]
  | some n => [1, numWord n]

/-- Format scope, 13 words (R60, R170). -/
def formatBody (f : Slot) (s : State) : List Word :=
  let x := s.format f
  [numWord x.active.letter, boolWord x.activeBank.committed, numWord x.standby.number] ++
  probationWords s.draws x.probation ++
  [ boolWord x.standbyBank.header.isSome, numWord x.bankA.slots.length, numWord x.bankA.params.length,
    numWord x.bankB.slots.length, numWord x.bankB.params.length ] ++
  bindingWords (s.boundRow f)

/-- The bodies of a READ_STATUS reply (R169, R170). -/
def statusBodies (s : State) : Scope → List (List Word)
  | .part => [partBody s]
  | .trunk t => trunkBodies t s
  | .link l => [linkBody (s.link l)]
  | .format f => [formatBody f s]

/-- READ_STATUS (R169, R170). -/
def readStatusOrder (o : QueuedOrder) (s : State) : State × Reply :=
  match scopeOf (o.arg 0) (o.arg 1) with
  | .error i => (s, Reply.one .badArgument (numWord i) [])
  | .ok sc => (s, { status := .ok, detail := numWord (o.arg 0), bodies := statusBodies s sc })

/-- The meaning of READ_STATUS. -/
def execReadStatus (s : State) (records : Nat := 5) : Result :=
  .next (carryOutUpTo records 0x23 readStatusOrder s)

/-! ### CLEAR_COUNTERS -/

/-- A row with its three counters at 0 (R37). -/
def Row.cleared (x : Row) : Row := { x with losses := 0, mismatches := 0, broken := 0 }

/-- A tracker with the counters of its occupied rows at 0 (R37). -/
def Tracker.cleared (x : Tracker) : Tracker := { x with rows := x.rows.map (fun r => r.map Row.cleared) }

/-- Runtimes with their sample counts at 0 (R114). -/
def clearSamples (es : List RuntimeEntry) : List RuntimeEntry :=
  es.map (fun e => { e with runtime := { e.runtime with samples := 0 } })

/-- The counters of a scope are set to 0 (R171). -/
def clearScope (s : State) : Scope → State
  | .part => s.setEvents { s.events with lost := 0 }
  | .trunk t => (s.onCounters t (fun _ => TrunkCounters.zero)).setTracker t (s.tracker t).cleared
  | .link l => s.setLink l { s.link l with counters := LinkCounters.zero }
  | .format f => s.setRuntimes f (clearSamples (s.runtimesOf f))

/-- CLEAR_COUNTERS (R171). -/
def clearCountersOrder (o : QueuedOrder) (s : State) : State × Reply :=
  match scopeOf (o.arg 0) (o.arg 1) with
  | .error i => (s, Reply.one .badArgument (numWord i) [])
  | .ok sc => (clearScope s sc, Reply.one .ok (numWord (o.arg 0)) [])

/-- The meaning of CLEAR_COUNTERS. -/
def execClearCounters (s : State) : Result := .next (carryOut 0x24 clearCountersOrder s)

end Sys2Proof.Machine
end

