-- ==== Sys2Proof/Machine/ChannelOrders.lean ====
section
/-! DEFINITION. The orders on the order channel and the event settings, and RESTART (sections 10.7 and
10.8). -/

namespace Sys2Proof.Machine

/-! ### SET_ORDER_ACCEPT -/

/-- SET_ORDER_ACCEPT (R172). -/
def setOrderAcceptOrder (o : QueuedOrder) (s : State) : State × Reply :=
  let set : BitVec 4 := (o.word 0).setWidth 4
  if field (o.word 0) 4 12 ≠ 0 then (s, Reply.one .badArgument 0 [])
  else if inTrunks set o.trunk = false then (s, Reply.one .wouldIsolate (numWord o.trunk.val) [])
  else (s.setOrders { s.orders with accept := set }, Reply.one .ok (numWord o.trunk.val) [set.setWidth 16])

/-- The meaning of SET_ORDER_ACCEPT. -/
def execSetOrderAccept (s : State) : Result := .next (carryOut 0x30 setOrderAcceptOrder s)

/-! ### SET_EVENTS -/

/-- The words of SET_EVENTS with whether each is in range (R173). -/
def setEventsRanges (o : QueuedOrder) : List (Nat × Bool) :=
  [ (0, within (o.arg 0) 0 1), (1, field (o.word 1) 9 7 == 0), (2, within (o.arg 2) 1 255),
    (3, within (o.arg 3) 1 255) ]

/-- A link with another stall time; a running timer keeps its remaining time (R120). -/
def LinkTx.withStallTime (lk : LinkTx) (n : Nat) : LinkTx := { lk with stallTime := n }

/-- The effects of an accepted SET_EVENTS (R120, R141, R173). -/
def applySetEvents (eventLink : Link) (o : QueuedOrder) (s : State) : State :=
  ((s.setEvents { s.events with link := eventLink, enabled := (o.word 1).setWidth 9 }).setLink 0
      ((s.link 0).withStallTime (o.arg 2))).setLink 1 ((s.link 1).withStallTime (o.arg 3))

/-- SET_EVENTS (R173). -/
def setEventsOrder (o : QueuedOrder) (s : State) : State × Reply :=
  match rangeFailure (setEventsRanges o), linkOf (o.arg 0) with
  | some i, _ => (s, Reply.one .badArgument (numWord i) [])
  | none, none => (s, Reply.one .badArgument 0 [])
  | none, some l => (applySetEvents l o s, Reply.one .ok 0 [])

/-- The meaning of SET_EVENTS. -/
def execSetEvents (s : State) : Result := .next (carryOut 0x31 setEventsOrder s)

/-! ### RESTART -/

/-- The steps of RESTART in order (R174). -/
def restartSteps : List RestartStep :=
  [.switchControl, .trunk 0, .trunk 1, .trunk 2, .trunk 3, .evaluation, .link 0, .link 1, .rows, .reply]

/-- An occupied row as RESTART sets it (R38). -/
def Row.restarted (committed : Bool) (x : Row) : Row :=
  { x with
    cycle := if committed then .search else .unformatted, expected := 0, check := 0, miss := 0, current := 0,
    cycleCount := 0, losses := 0, mismatches := 0, broken := 0 }

/-- The rows of a tracker as RESTART sets them (R38). -/
def Tracker.restarted (s : State) (x : Tracker) : Tracker :=
  { x with rows := x.rows.map (fun r => r.map (fun y => y.restarted (s.activeBank y.format).committed)) }

/-- Step (1) of RESTART: every format slot bound to any row, in slot order (R71, R174). -/
def restartSwitches (s : State) : State :=
  (slotList.filter (fun f => (s.boundRow f).isSome)).foldl (settleFormat .order) s

/-- Step (3) of RESTART: every runtime of every active bank becomes fresh (R115). -/
def restartRuntimes (s : State) : State :=
  slotList.foldl (fun x f => x.setRuntimes f (freshRuntimes (x.activeBank f))) s

/-- One step of RESTART on the blocks; the reply is the engine's (R174). `arrived` says how many bits of each
trunk have arrived (R19; log 3). -/
def restartStep (arrived : Vector Nat 4) (s : State) : RestartStep → State
  | .switchControl => restartSwitches s
  | .trunk t => reinitTrunk t (s.receiver t).profile (pick arrived t) s
  | .evaluation => restartRuntimes s
  | .link l =>
    let s1 := s.setLink l (s.link l).restart
    if l = 1 then s1.setEvents { s1.events with lost := 0 } else s1
  | .rows => { s with trackers := s.trackers.map (Tracker.restarted s) }
  | .reply => s

/-- The engine carries out the next `n` of the steps of RESTART that are left; the last one places the
reply, which ends the order (R174, R175). -/
def runRestart (o : QueuedOrder) (arrived : Vector Nat 4) : Nat → List RestartStep → State → State
  | _, [], s => answer o (Reply.one .ok 0 []) s
  | 0, left, s => s.setEngine (.restarting o left)
  | n + 1, x :: rest, s =>
    match rest with
    | [] => answer o (Reply.one .ok 0 []) (restartStep arrived s x)
    | _ :: _ => runRestart o arrived n rest (restartStep arrived s x)

/-- RESTART (R174, R175): tag test and frame checks when it begins, then its next `n` steps. -/
def restartOrder (n : Nat) (arrived : Vector Nat 4) (s : State) : State :=
  match s.orders.engine with
  | .executing _ => takeUp 0x3F (fun o u => runRestart o arrived n restartSteps u) s
  | .restarting o left => runRestart o arrived n left s
  | .idle => s
  | .settling _ _ => s
  | .placing _ _ _ => s
  | .replying _ _ _ => s

/-- The meaning of RESTART. -/
def execRestart (steps : Nat) (s : State) (arrived : Vector Nat 4 := Vector.replicate 4 0) : Result :=
  .next (restartOrder steps arrived s)

end Sys2Proof.Machine
end

