-- ==== Sys2Proof/Machine/Dispatch.lean ====
section
/-! DEFINITION. One command's meaning: one arm for each row of the table. -/

namespace Sys2Proof.Machine

/-- The effect of a command on everything but the queue of commands. -/
def exec (i : Instr) (s : State) : Host.Outcome State Fault Refusal :=
  match i with
  | .powerOnReset ready0 ready1 => Sys2Proof.Machine.execPowerOnReset ready0 ready1 s
  | .syncCandidateMatch t start bits => Sys2Proof.Machine.execSyncCandidateMatch t start bits s
  | .expectedBoundaryComparison t bits => Sys2Proof.Machine.execExpectedBoundaryComparison t bits s
  | .orderMarkerMatch t start bits => Sys2Proof.Machine.execOrderMarkerMatch t start bits s
  | .orderFrameReceived t header control body check others => Sys2Proof.Machine.execOrderFrameReceived t header control body check s others
  | .minorFrameDelivered t words => Sys2Proof.Machine.execMinorFrameDelivered t words s
  | .waitingFrameProcessed t => Sys2Proof.Machine.execWaitingFrameProcessed t s
  | .linkUp l => Sys2Proof.Machine.execLinkUp l s
  | .linkDown l => Sys2Proof.Machine.execLinkDown l s
  | .creditReturn l => Sys2Proof.Machine.execCreditReturn l s
  | .stallTimerExpiry l => Sys2Proof.Machine.execStallTimerExpiry l s
  | .recordSent l => Sys2Proof.Machine.execRecordSent l s
  | .roomNotice records => Sys2Proof.Machine.execRoomNotice s records
  | .unknownOrder => Sys2Proof.Machine.execUnknownOrder s
  | .echo => Sys2Proof.Machine.execEcho s
  | .setTrunk arrived steps => Sys2Proof.Machine.execSetTrunk s arrived steps
  | .bindSource => Sys2Proof.Machine.execBindSource s
  | .unbindSource steps => Sys2Proof.Machine.execUnbindSource s steps
  | .stageHeader => Sys2Proof.Machine.execStageHeader s
  | .stageSlots => Sys2Proof.Machine.execStageSlots s
  | .stageParams => Sys2Proof.Machine.execStageParams s
  | .discardStage => Sys2Proof.Machine.execDiscardStage s
  | .commit => Sys2Proof.Machine.execCommit s
  | .cancelCommit => Sys2Proof.Machine.execCancelCommit s
  | .tuneParam => Sys2Proof.Machine.execTuneParam s
  | .readParam => Sys2Proof.Machine.execReadParam s
  | .readBank records => Sys2Proof.Machine.execReadBank s records
  | .readStatus records => Sys2Proof.Machine.execReadStatus s records
  | .clearCounters => Sys2Proof.Machine.execClearCounters s
  | .setOrderAccept => Sys2Proof.Machine.execSetOrderAccept s
  | .setEvents => Sys2Proof.Machine.execSetEvents s
  | .restart steps arrived => Sys2Proof.Machine.execRestart steps s arrived

end Sys2Proof.Machine
end

