-- ==== Sys2Proof/Safety.lean ====
section
/-! DEFINITION. The laws that the manual says hold in every state, as decidable predicates of the state: the
invariants that the certificates say every step keeps. -/

namespace Sys2Proof.Machine

/-! ### Links (chapter 7) -/

/-- What a link holds, within its bounds (R116, R120, R125): at most 32 and 512 records, 63 credits, a burst
of 8, no record and no credit outside UP, the ready line active outside DOWN, a record in transmission at
the head of its lane, and the overrun report disarmed only above 256 records. -/
abbrev LinkTx.Lawful (lk : LinkTx) : Prop :=
  lk.control.length ≤ Config.controlLane ∧ lk.sample.length ≤ Config.sampleLane ∧
  lk.credits ≤ Config.maxCredits ∧ lk.burst ≤ Config.maxBurst ∧ 1 ≤ lk.stallTime ∧ lk.stallTime ≤ 255 ∧
  (lk.state ≠ .up → lk.control = [] ∧ lk.sample = [] ∧ lk.credits = 0) ∧
  (lk.ready = true ↔ lk.state ≠ .down) ∧
  (lk.sending = some .control → lk.control ≠ []) ∧ (lk.sending = some .sample → lk.sample ≠ []) ∧
  (lk.overrunArmed = false → Config.overrunRearm < lk.sample.length)

/-- The stall timer runs exactly while the link is UP without credit and a record waits (R121), with 1 to
255 units left, and the arbiter leaves no record waiting that it could start (R128). -/
abbrev LinkTx.Scheduled (lk : LinkTx) : Prop :=
  (lk.timer.isSome = true ↔ lk.state = .up ∧ lk.credits = 0 ∧ 0 < lk.unstarted) ∧
  (∀ n ∈ lk.timer, 1 ≤ n ∧ n ≤ 255) ∧
  (lk.state = .up ∧ 0 < lk.credits ∧ lk.sending = none → lk.control = [] ∧ lk.sample = [])

/-- Both links keep their laws. -/
def State.LinksLawful (s : State) : Prop := ∀ l : Link, (s.link l).Lawful ∧ (s.link l).Scheduled

/-! ### The table pool and the banks (chapter 3) -/

/-- The slot entries held by all sixteen banks (R48). -/
def State.heldSlots (s : State) : Nat :=
  (slotList.map (fun f => (s.format f).bankA.slots.length + (s.format f).bankB.slots.length)).sum

/-- The parameter definitions held by all sixteen banks (R48). -/
def State.heldParams (s : State) : Nat :=
  (slotList.map (fun f => (s.format f).bankA.params.length + (s.format f).bankB.params.length)).sum

/-- Free entries and held entries together are the pool (R48). -/
def State.PoolConserved (s : State) : Prop :=
  s.freeSlots + s.heldSlots = Config.poolSlots ∧ s.freeParams + s.heldParams = Config.poolParams

/-- A slot entry within the ranges of R43. -/
abbrev SlotEntry.InRange (e : SlotEntry) : Prop :=
  1 ≤ e.pos ∧ e.pos ≤ 1024 ∧ 1 ≤ e.interval ∧ e.interval ≤ 256 ∧ e.offset < e.interval ∧ e.param ≤ 4095 ∧
  e.piece ≤ 3

/-- An emission mode within the ranges of R46. -/
def Emission.inRange : Emission → Bool
  | .every => true
  | .nth n => within n 2 255
  | .change d => decide (d ≤ 65535)

/-- A limits part within the ranges of R46. -/
abbrev Limits.InRange (signed : Bool) (l : Limits) : Prop :=
  l.lo ≤ l.hi ∧ 1 ≤ l.persistence ∧ l.persistence ≤ 255 ∧
  (if signed then (-8388608 : Int) else 0) ≤ l.lo ∧ l.hi ≤ (if signed then 8388607 else 16777215 : Int)

/-- A parameter definition within the ranges of R46. -/
abbrev ParamDef.InRange (d : ParamDef) : Prop :=
  d.number ≤ 4095 ∧ 1 ≤ d.pieces ∧ d.pieces ≤ 4 ∧ d.emission.inRange = true ∧
  ∀ l ∈ d.limits, l.InRange d.signed

/-- A bank's content as the staging checks leave it: header in range (R42), slot map ordered and without
overlap (R44, R45), parameter list ordered (R47), every entry in range. -/
abbrev Bank.Lawful (b : Bank) : Prop :=
  (∀ h ∈ b.header, headerFailure h = none) ∧ (∀ e ∈ b.slots, e.InRange) ∧
  b.slots.Pairwise (fun x y => slotBefore x y = true) ∧
  b.slots.Pairwise (fun x y => overlaps x y = false) ∧ (∀ d ∈ b.params, d.InRange) ∧
  b.params.Pairwise (fun x y => x.number < y.number)

/-- Every bank is lawful. -/
def State.StoreLawful (s : State) : Prop :=
  ∀ f : Slot, (s.format f).bankA.Lawful ∧ (s.format f).bankB.Lawful

/-! ### Sources (chapter 2) -/

/-- An occupied row's counts are 0 outside the cycle state that uses them (R21). -/
abbrev Row.Lawful (x : Row) : Prop :=
  (x.cycle ≠ .check → x.check = 0) ∧ (x.cycle ≠ .locked → x.miss = 0)

/-- Every occupied row is lawful. -/
def State.RowsLawful (s : State) : Prop := ∀ (t : Trunk) (r : RowIx), ∀ x ∈ s.row t r, x.Lawful

/-- Rows and formats are bound one to one, only row 0 is occupied on an untagged trunk (R21), and no two
rows of a trunk carry the same tag value (R24). -/
def State.BindingsLawful (s : State) : Prop :=
  (∀ (t t' : Trunk) (r r' : RowIx), ∀ x ∈ s.row t r, ∀ x' ∈ s.row t' r', x.format = x'.format → t = t' ∧ r = r') ∧
  (∀ (t : Trunk) (r : RowIx), (s.receiver t).profile.tagPos = 0 → r ≠ 0 → s.row t r = none) ∧
  (∀ (t : Trunk) (r r' : RowIx), ∀ x ∈ s.row t r, ∀ x' ∈ s.row t r', ∀ v ∈ x.tag, x'.tag = some v → r = r')

/-! ### Trunk receivers (chapter 1) -/

/-- A receiver's synchronizer: OFF exactly when disabled (R5), hit and miss counts used in VERIFY and
FLYWHEEL alone and below V and F there (section 1.2.2, R7, R9), an expected boundary in the states that
compare there (Table 1-1), a frame in collection in LOCKED without the mark or in FLYWHEEL with it. -/
abbrev Receiver.Lawful (x : Receiver) : Prop :=
  (x.sync = .off ↔ x.profile.enable = false) ∧ (x.sync ≠ .verify → x.hits = 0) ∧
  (x.sync ≠ .flywheel → x.misses = 0) ∧ (x.sync = .verify → 1 ≤ x.hits ∧ x.hits < x.profile.verify) ∧
  (x.sync = .flywheel → 1 ≤ x.misses ∧ x.misses < x.profile.flywheel) ∧
  (x.boundary.isSome = true ↔ x.sync.atBoundary = true) ∧
  ∀ c ∈ x.frame, (x.sync = .locked ∧ c.mark = false) ∨ (x.sync = .flywheel ∧ c.mark = true)

/-- A profile's settings: those of power-on, or each in the range that SET_TRUNK asks for (R1, R160), so that
the sync pattern has 16 to 48 bits. -/
abbrev Profile.Lawful (p : Profile) : Prop :=
  p = Profile.powerOn ∨
    (8 ≤ p.width ∧ p.width ≤ 16 ∧ 4 ≤ p.words ∧ p.words ≤ 1024 ∧ 1 ≤ p.syncWords ∧ p.syncWords ≤ 4 ∧
      p.syncWords < p.words ∧ 16 ≤ p.patternBits ∧ p.patternBits ≤ 48 ∧ p.pattern.toNat < 2 ^ p.patternBits ∧
      p.tolerance ≤ 7 ∧ 1 ≤ p.verify ∧ p.verify ≤ 8 ∧ 1 ≤ p.flywheel ∧ p.flywheel ≤ 16 ∧
      (p.tagPos = 0 ∨ (p.syncWords < p.tagPos ∧ p.tagPos ≤ p.words)))

/-- Every trunk's profile is lawful. -/
def State.ProfilesLawful (s : State) : Prop := ∀ t : Trunk, (s.receiver t).profile.Lawful

/-- Every receiver is lawful. -/
def State.ReceiversLawful (s : State) : Prop := ∀ t : Trunk, (s.receiver t).Lawful

/-! ### Switch control (chapter 4) -/

/-- A format slot's standby and probation: an EMPTY bank holds nothing (R40, R41), an ARMED or FALLBACK
standby holds a header (R41), and during a probation of 1 to 15 boundaries the standby is FALLBACK (R62,
R73). An ARMED standby and a probation stand beside a COMMITTED active bank. -/
abbrev FormatSlot.Lawful (x : FormatSlot) : Prop :=
  (x.activeBank.header = none → x.activeBank = Bank.empty) ∧
  (x.standby = .empty → x.standbyBank = Bank.empty) ∧
  (x.standby = .armed ∨ x.standby = .fallback → x.standbyBank.header.isSome = true) ∧
  (x.standby = .armed ∨ x.probation.isSome = true → x.activeBank.header.isSome = true) ∧
  ∀ n ∈ x.probation, 1 ≤ n ∧ n ≤ 15 ∧ x.standby = .fallback

/-- Format slots are lawful, their bindings are, and a bound row is UNFORMATTED exactly when its format's
active bank is EMPTY (R40, R26). -/
def State.FormatsLawful (s : State) : Prop :=
  s.BindingsLawful ∧ s.StoreLawful ∧ (∀ f : Slot, (s.format f).Lawful) ∧
  ∀ (t : Trunk) (r : RowIx), ∀ x ∈ s.row t r, (x.cycle = .unformatted ↔ (s.activeBank x.format).header = none)

/-- The format slots that a SET_TRUNK or an UNBIND_SOURCE concerns (R71). -/
def concernedFormats (o : QueuedOrder) (s : State) : List Slot :=
  if o.code = 0x03 then
    match unbindCheck o s with
    | .error _ => []
    | .ok fs => fs
  else
    match trunkOf (o.arg 0) with
    | none => []
    | some t => formatsOnTrunk t s

/-- Whether a format slot has no ARMED standby and no probation in progress: the switch control has handled it
(R71). -/
def FormatSlot.settled (x : FormatSlot) : Bool := x.standby != .armed && x.probation.isNone

/-- What holds between the steps of one order. A format that a SET_TRUNK or an UNBIND_SOURCE concerns is still
to be handled by the switch control, or settled (R71). The steps that RESTART has left are the last ones of
R174; once the switch control's step is made every format is settled, and between a trunk's
reinitialization and the setting of the rows no row of that trunk is in CYCLE_CHECK or CYCLE_LOCKED (R174,
R175). -/
def State.stepsLawful (s : State) : Bool :=
  match s.orders.engine with
  | .settling o left => (concernedFormats o s).all (fun f => left.contains f || (s.format f).settled)
  | .restarting _ left =>
    decide (left ∈ restartSteps.tails) && decide (left ≠ []) &&
    (left.contains .switchControl ||
      slotList.all (fun f => (s.format f).settled)) &&
    trunkList.all (fun t => !s.held t ||
      rowList.all (fun r => match s.row t r with
        | none => true
        | some x => x.cycle == .search || x.cycle == .unformatted))
  | .idle => true
  | .executing _ => true
  | .placing _ _ _ => true
  | .replying _ _ _ => true

/-- A standby is ARMED, and a probation in progress, only while the format is bound to a row in
CYCLE_LOCKED (R67, R76). -/
def State.ArmedLocked (s : State) : Prop :=
  ∀ f : Slot, (s.format f).standby = .armed ∨ (s.format f).probation.isSome = true → boundLocked f s = true

/-- The laws of the switch control. -/
def State.SwitchLawful (s : State) : Prop := s.FormatsLawful ∧ s.ArmedLocked ∧ s.stepsLawful = true

/-- No parameter number is defined by two format slots among the active banks, the ARMED standbys and the
fallbacks on probation (R66). -/
def State.NumbersApart (s : State) : Prop :=
  ∀ f g : Slot, f ≠ g →
    ∀ d ∈ (s.format f).bankA.params ++ (s.format f).bankB.params,
      (s.format f).claims d.number = true → (s.format g).claims d.number = false

/-! ### Assembly and evaluation (chapters 5 and 6) -/

/-- There is one context and one runtime for each definition of each active bank (R87, R99), and a
runtime's candidate is none exactly when its run is 0, and is never the limit state (R99). -/
def State.EvaluationLawful (s : State) : Prop :=
  ∀ f : Slot,
    (s.contextsOf f).map (fun c => c.number) = (s.activeBank f).params.map (fun d => d.number) ∧
    (s.runtimesOf f).map (fun e => e.number) = (s.activeBank f).params.map (fun d => d.number) ∧
    ∀ e ∈ s.runtimesOf f,
      (e.runtime.candidate = none ↔ e.runtime.run = 0) ∧ e.runtime.candidate ≠ some e.runtime.limit

/-! ### The order unit (chapter 9) -/

/-- The order that an engine state holds, if any. -/
def Engine.order : Engine → Option QueuedOrder
  | .idle => none
  | .executing o => some o
  | .settling o _ => some o
  | .restarting o _ => some o
  | .placing o _ _ => some o
  | .replying o _ _ => some o

/-- Whether the engine holds a reply record for a full lane (R153). -/
def Engine.waits : Engine → Bool
  | .idle => false
  | .executing _ => false
  | .settling _ _ => false
  | .restarting _ _ => false
  | .placing _ _ _ => false
  | .replying _ _ _ => true

/-- The order unit: a non-empty accept set and at most eight queued orders (R143), none queued while the
engine is IDLE (R148), no non-zero tag twice from one trunk (R145), a room notice only for an engine that
waits (R126), as many body words as the control word says (R13), and reply memory for tagged orders
alone (R154). -/
def State.OrdersLawful (s : State) : Prop :=
  s.orders.accept ≠ 0 ∧ s.orders.queue.length ≤ Config.queueRoom ∧
  (s.orders.engine = .idle → s.orders.queue = []) ∧
  s.orders.queue.Pairwise (fun x y => y.tag ≠ 0 → sameTag y x = false) ∧
  (s.orders.notice.isSome = true → s.orders.engine.waits = true) ∧
  (∀ q ∈ s.orders.queue, q.body.length = q.bodyCount) ∧
  (∀ q ∈ s.orders.engine.order, q.body.length = q.bodyCount) ∧
  ∀ t : Trunk, ∀ m ∈ pick s.orders.memory t, m.tag ≠ 0

/-- The order `o` of code `code` is in execution and is to be carried out: no stored reply answers it (R149),
and it passes the frame checks (R150). -/
abbrev State.Carries (s : State) (code : Nat) (o : QueuedOrder) : Prop :=
  s.orders.engine = .executing o ∧ o.code = code ∧ storedReply o s = none ∧ o.reservedSet = false ∧
  permittedCount code o.bodyCount = true

/-- An engine that waits with no room notice given waits on a full control lane of a link that is UP: the
room it waits for has not come and gone (R126, R153). -/
def State.waitLawful (s : State) : Bool :=
  match s.orders.engine, s.orders.notice with
  | .replying o _ _, none =>
    (s.link o.replyLink).state == .up && decide (Config.controlLane ≤ (s.link o.replyLink).control.length)
  | .replying _ _ _, some _ => true
  | .idle, _ => true
  | .executing _, _ => true
  | .settling _ _, _ => true
  | .restarting _ _, _ => true
  | .placing _ _ _, _ => true

end Sys2Proof.Machine
end

