-- ==== Sys2Proof/Certificates/Slice0/Obligations.lean ====
section
/-! DEFINITION. The statements about the part, for the provers. -/

section

open Sys2Proof Sys2Proof.Machine

/-! ### Steps, commands, power-on reset -/

/-- A step takes the command at the front of the queue and is `exec` of it on the state with the rest. The
queue is the model's (log 23). -/
def Obligations.StepRunsFrontCommand : Prop :=
  ∀ (c : Instr) (rest : List Instr) (s : State),
    s.pending = c :: rest → step s = exec c { s with pending := rest }

/-- Every command has a next state in every state, and leaves the commands behind it waiting (the manual
names no condition that stops the part). An event that cannot occur has no effect (log 1). -/
def Obligations.EveryCommandHasANextState : Prop :=
  ∀ (c : Instr) (s : State), ∃ u, exec c s = .next u ∧ u.pending = s.pending

/-- POWER_ON_RESET: every block has its power-on state, each link UP where its ready line is active at the
release (R18, R38, R61, R115, R131, R133, R143). The operands are the ready lines' levels (log 19); that no
bit of a trunk has arrived (log 3) and no room notice is held (log 16) is the model's. -/
def Obligations.PowerOnResetState : Prop :=
  ∀ (r0 r1 : Bool) (s : State), ∃ u, exec (.powerOnReset r0 r1) s = .next u ∧
    (∀ t : Trunk,
      (u.receiver t).profile =
        { enable := false, width := 0, words := 0, syncWords := 0, pattern := 0, tolerance := 0, verify := 0,
          flywheel := 0, tagPos := 0 } ∧
      (u.receiver t).sync = .off ∧ (u.receiver t).hits = 0 ∧ (u.receiver t).misses = 0 ∧
      (u.receiver t).boundary = none ∧ (u.receiver t).frame = none ∧ (u.receiver t).order = none ∧
      (u.receiver t).arrived = 0 ∧ (u.receiver t).resume = 0 ∧
      (u.receiver t).counters =
        { delivered := 0, flywheel := 0, syncLosses := 0, unmatched := 0, taken := 0, rejected := 0,
          refused := 0, shed := 0 } ∧
      (u.tracker t).waiting = [] ∧ ∀ r : RowIx, u.row t r = none) ∧
    (∀ f : Slot,
      u.format f =
        { active := .a, bankA := { header := none, slots := [], params := [] },
          bankB := { header := none, slots := [], params := [] }, standby := .empty, probation := none } ∧
      u.contextsOf f = [] ∧ u.runtimesOf f = []) ∧
    u.freeSlots = 4096 ∧ u.freeParams = 1024 ∧
    (∀ l : Link, ∀ ready : Bool, ready = (if l = 0 then r0 else r1) →
      u.link l =
        { state := if ready then .up else .down, ready := ready, credits := 0, control := [], sample := [],
          sending := none, burst := 0, overrunArmed := true, stallTime := 250, timer := none,
          counters :=
            { sampleSent := 0, controlSent := 0, dropped := 0, sampleFlushed := 0, controlFlushed := 0,
              stalls := 0 } }) ∧
    u.events = { link := 0, enabled := 0x1FF#9, shedArmed := true, refusalArmed := 0xF#4, lost := 0 } ∧
    u.orders.accept = 0x1#4 ∧ u.orders.queue = [] ∧ u.orders.engine = .idle ∧ u.orders.notice = none ∧
    ∀ t : Trunk, pick u.orders.memory t = none

/-- The state right after reset satisfies every invariant stated below. -/
def Obligations.InvariantsHoldAtReset : Prop :=
  State.reset.LinksLawful ∧ State.reset.PoolConserved ∧ State.reset.StoreLawful ∧
  State.reset.ProfilesLawful ∧ State.reset.ReceiversLawful ∧ State.reset.RowsLawful ∧
  State.reset.BindingsLawful ∧
  State.reset.SwitchLawful ∧ State.reset.NumbersApart ∧ State.reset.EvaluationLawful ∧
  State.reset.OrdersLawful ∧ State.reset.waitLawful = true

/-! ### Trunk receivers -/

/-- A comparison counts the differing bits between the L bits from the candidate's first bit on and the
pattern, most significant pattern bit against the first bit (R3). -/
def Obligations.DifferingBitsCountMismatches : Prop :=
  ∀ (p : Profile) (bits : Window), p.Lawful →
    differingBits p bits =
      ((List.range p.patternBits).filter
        (fun i => bits.getLsbD (47 - i) != p.pattern.getLsbD (p.patternBits - 1 - i))).length

/-- SYNC_CANDIDATE_MATCH: a candidate of a trunk in SEARCH that misses leaves SEARCH, and so does one whose
last bit completes an order marker that began at or after the resume point; any other that matches takes the
trunk to LOCKED when V = 1 and to VERIFY with hit count 1 when V > 1 (R6, R12). The 48 bits of the command end
with the candidate's last bit (log 4); bit numbers and `arrived` are the model's (log 3). -/
def Obligations.CandidateDecided : Prop :=
  ∀ (t : Trunk) (start last : Nat) (bits candidate : Window) (s : State) (x x' : Receiver),
    x = s.receiver t → x.sync = .search → x.order = none → x.resume ≤ start →
    last = start + x.profile.patternBits → x.arrived ≤ last →
    candidate = bits <<< (48 - x.profile.patternBits) → x' = { x with arrived := max x.arrived last } →
    (x.profile.tolerance < differingBits x.profile candidate →
      exec (.syncCandidateMatch t start bits) s = .next (s.setReceiver t x')) ∧
    (bits.extractLsb' 0 32 = 0xE4B71D29#32 → x.resume + 32 ≤ last →
      exec (.syncCandidateMatch t start bits) s = .next (s.setReceiver t x')) ∧
    (differingBits x.profile candidate ≤ x.profile.tolerance →
      (bits.extractLsb' 0 32 ≠ 0xE4B71D29#32 ∨ last < x.resume + 32) →
      (x.profile.verify ≤ 1 →
        exec (.syncCandidateMatch t start bits) s =
          .next (postTrunkSync t .search .locked (s.setReceiver t
            { x' with
              sync := .locked, hits := 0, misses := 0,
              boundary := some (start + x.profile.words * x.profile.width),
              frame := some { start := start, mark := false } }))) ∧
      (1 < x.profile.verify →
        exec (.syncCandidateMatch t start bits) s =
          .next (postTrunkSync t .search .verify (s.setReceiver t
            { x' with
              sync := .verify, hits := 1, misses := 0,
              boundary := some (start + x.profile.words * x.profile.width), frame := none }))))

/-- EXPECTED_BOUNDARY_COMPARISON in VERIFY: a hit below V is counted, the V-th hit locks, a miss returns the
trunk to SEARCH at the bit after the missed sync field; a candidate elsewhere is not compared (R7). How many
bits have arrived is left open. -/
def Obligations.BoundaryInVerify : Prop :=
  ∀ (t : Trunk) (bits : Window) (s : State) (x : Receiver) (e : Nat),
    x = s.receiver t → x.sync = .verify → x.boundary = some e → x.order = none → x.frame = none →
    startsWithMarker bits = false →
    (∀ (start : Nat) (window : Window), exec (.syncCandidateMatch t start window) s = .next s) ∧
    ∃ (n : Nat) (x' : Receiver), x' = { x with arrived := n } ∧
    (syncMatches x.profile bits = true → x.hits + 1 < x.profile.verify →
      exec (.expectedBoundaryComparison t bits) s =
        .next (s.setReceiver t
          { x' with
            hits := x.hits + 1, misses := 0, boundary := some (e + x.profile.words * x.profile.width) })) ∧
    (syncMatches x.profile bits = true → x.profile.verify ≤ x.hits + 1 →
      exec (.expectedBoundaryComparison t bits) s =
        .next (postTrunkSync t .verify .locked (s.setReceiver t
          { x' with
            sync := .locked, hits := 0, misses := 0,
            boundary := some (e + x.profile.words * x.profile.width),
            frame := some { start := e, mark := false } }))) ∧
    (syncMatches x.profile bits = false →
      exec (.expectedBoundaryComparison t bits) s =
        .next (trackerEnded t (postTrunkSync t .verify .search (s.setReceiver t
          { x' with
            sync := .search, hits := 0, misses := 0, resume := e + x.profile.patternBits, boundary := none,
            frame := none }))))

/-- EXPECTED_BOUNDARY_COMPARISON in LOCKED: a hit delivers the frame unmarked; a miss goes to FLYWHEEL with
miss count 1 and a marked frame when F > 1, and to SEARCH with one sync loss when F = 1; a candidate elsewhere
is not compared (R8). How many bits have arrived is left open. -/
def Obligations.BoundaryInLocked : Prop :=
  ∀ (t : Trunk) (bits : Window) (s : State) (x : Receiver) (e : Nat),
    x = s.receiver t → x.sync = .locked → x.boundary = some e → x.order = none → x.frame = none →
    startsWithMarker bits = false →
    (∀ (start : Nat) (window : Window), exec (.syncCandidateMatch t start window) s = .next s) ∧
    ∃ (n : Nat) (x' : Receiver), x' = { x with arrived := n } ∧
    (syncMatches x.profile bits = true →
      exec (.expectedBoundaryComparison t bits) s =
        .next (s.setReceiver t
          { x' with
            hits := 0, misses := 0, boundary := some (e + x.profile.words * x.profile.width),
            frame := some { start := e, mark := false } })) ∧
    (syncMatches x.profile bits = false → 1 < x.profile.flywheel →
      exec (.expectedBoundaryComparison t bits) s =
        .next (postTrunkSync t .locked .flywheel (s.setReceiver t
          { x' with
            sync := .flywheel, hits := 0, misses := 1,
            boundary := some (e + x.profile.words * x.profile.width),
            frame := some { start := e, mark := true } }))) ∧
    (syncMatches x.profile bits = false → x.profile.flywheel ≤ 1 →
      exec (.expectedBoundaryComparison t bits) s =
        .next (trackerEnded t (postTrunkSync t .locked .search (s.setReceiver t
          { x' with
            sync := .search, hits := 0, misses := 0, resume := e + x.profile.patternBits, boundary := none,
            frame := none,
            counters := { x.counters with syncLosses := bump x.counters.syncLosses } }))))

/-- EXPECTED_BOUNDARY_COMPARISON in FLYWHEEL: a hit returns to LOCKED; a miss below F is counted with a
marked frame; the F-th miss goes to SEARCH with one sync loss; a candidate elsewhere is not compared (R9).
How many bits have arrived is left open. -/
def Obligations.BoundaryInFlywheel : Prop :=
  ∀ (t : Trunk) (bits : Window) (s : State) (x : Receiver) (e : Nat),
    x = s.receiver t → x.sync = .flywheel → x.boundary = some e → x.order = none → x.frame = none →
    startsWithMarker bits = false →
    (∀ (start : Nat) (window : Window), exec (.syncCandidateMatch t start window) s = .next s) ∧
    ∃ (n : Nat) (x' : Receiver), x' = { x with arrived := n } ∧
    (syncMatches x.profile bits = true →
      exec (.expectedBoundaryComparison t bits) s =
        .next (postTrunkSync t .flywheel .locked (s.setReceiver t
          { x' with
            sync := .locked, hits := 0, misses := 0,
            boundary := some (e + x.profile.words * x.profile.width),
            frame := some { start := e, mark := false } }))) ∧
    (syncMatches x.profile bits = false → x.misses + 1 < x.profile.flywheel →
      exec (.expectedBoundaryComparison t bits) s =
        .next (s.setReceiver t
          { x' with
            hits := 0, misses := x.misses + 1, boundary := some (e + x.profile.words * x.profile.width),
            frame := some { start := e, mark := true } })) ∧
    (syncMatches x.profile bits = false → x.profile.flywheel ≤ x.misses + 1 →
      exec (.expectedBoundaryComparison t bits) s =
        .next (trackerEnded t (postTrunkSync t .flywheel .search (s.setReceiver t
          { x' with
            sync := .search, hits := 0, misses := 0, resume := e + x.profile.patternBits, boundary := none,
            frame := none,
            counters := { x.counters with syncLosses := bump x.counters.syncLosses } }))))

/-- ORDER_MARKER_MATCH: where a marker may begin, 32 bits that are the marker open an order frame and change
nothing else but how many bits have arrived; any other 32 bits open none, whatever the tolerance (R12, R13).
Bit numbers and `arrived` are the model's (log 3). -/
def Obligations.MarkerOpensOrderFrame : Prop :=
  ∀ (t : Trunk) (start : Nat) (bits : BitVec 32) (s : State) (x : Receiver),
    x = s.receiver t → x.order = none →
    (x.sync.atBoundary = true ∧ x.frame = none ∧ x.boundary = some start ∨
      x.sync.atBoundary = false ∧ x.resume ≤ start ∧ x.arrived ≤ start + 32) →
    (bits = 0xE4B71D29#32 →
      exec (.orderMarkerMatch t start bits) s =
        .next (s.setReceiver t { x with order := some start, arrived := max x.arrived (start + 32) })) ∧
    (bits ≠ 0xE4B71D29#32 → exec (.orderMarkerMatch t start bits) s = .next s)

/-- ORDER_FRAME_RECEIVED: order frames that complete at the same time are taken one after another, the lower
trunk number first (R147). With its c body words a frame ends at bit m + 16 (c + 5), which becomes the
expected boundary or the resume point; a failed check is counted and goes no further, a passed one is
counted and the frame handed to the order unit (R13, R14). The check value begins at 0FFFFH and takes each
word from bit 15 on: the register is shifted one place, and exclusive-ored with 1021H when the data bit
differs from the bit shifted out (R177). Bit numbers and `arrived` are the model's (log 3). -/
def Obligations.OrderFrameEnds : Prop :=
  (∀ (t : Trunk) (v : OrderFrame) (others frames : Vector (Option OrderFrame) 4) (s a b c d : State),
    frames = put others t (some v) →
    a = (match pick frames 0 with | none => s | some w => orderFrame 0 w s) →
    b = (match pick frames 1 with | none => a | some w => orderFrame 1 w a) →
    c = (match pick frames 2 with | none => b | some w => orderFrame 2 w b) →
    d = (match pick frames 3 with | none => c | some w => orderFrame 3 w c) →
    exec (.orderFrameReceived t v.header v.control v.body v.check others) s = .next d) ∧
  (∀ (t : Trunk) (w : OrderFrame) (s : State) (x y : Receiver) (m last : Nat),
    x = s.receiver t → x.order = some m → w.body.length = (w.control.extractLsb' 0 8).toNat →
    last = m + 16 * (w.body.length + 5) →
    y = (if x.sync.atBoundary then
          { x with arrived := max x.arrived last, order := none, boundary := some last }
        else { x with arrived := max x.arrived last, order := none, resume := last }) →
    (crcOf (w.header :: w.control :: w.body) ≠ w.check →
      exec (.orderFrameReceived t w.header w.control w.body w.check) s =
        .next (s.setReceiver t
          { y with counters := { x.counters with rejected := bump x.counters.rejected } })) ∧
    (crcOf (w.header :: w.control :: w.body) = w.check →
      exec (.orderFrameReceived t w.header w.control w.body w.check) s =
        .next (handOrder { trunk := t, header := w.header, control := w.control, body := w.body }
          (s.setReceiver t { y with counters := { x.counters with taken := bump x.counters.taken } })))) ∧
  crcOf [] = 0xFFFF ∧
  ∀ (ws : List Word) (w : Word),
    crcOf (ws ++ [w]) =
      [15, 14, 13, 12, 11, 10, 9, 8, 7, 6, 5, 4, 3, 2, 1, 0].foldl
        (fun (reg : Word) (i : Nat) =>
          if w.getLsbD i = reg.getLsbD 15 then reg <<< 1 else (reg <<< 1) ^^^ 0x1021#16)
        (crcOf ws)

/-- A reinitialized trunk of which n bits have arrived: the profile is in force, the state SEARCH or OFF,
both counts and all counters 0, no minor frame in collection, an order frame in reception undisturbed, the
resume point the next bit; the other receivers are not disturbed (R19, R20). Frames that waited are taken
first; then TRUNK_SYNC is posted if the state changes, the delivery-ended signal is given with cause order,
and the counters become 0 (R34, R19). The number of bits arrived comes with the command (log 3). -/
def Obligations.ReinitializedTrunk : Prop :=
  ∀ (t : Trunk) (p : Profile) (n : Nat) (s : State),
    (reinitTrunk t p n s).receiver t =
      { s.receiver t with
        profile := p, sync := if p.enable then .search else .off, hits := 0, misses := 0,
        arrived := max (s.receiver t).arrived n, resume := max (s.receiver t).arrived n, boundary := none,
        frame := none,
        counters :=
          { delivered := 0, flywheel := 0, syncLosses := 0, unmatched := 0, taken := 0, rejected := 0,
            refused := 0, shed := 0 } } ∧
    (∀ t' : Trunk, t' ≠ t → (reinitTrunk t p n s).receiver t' = s.receiver t') ∧
    ∀ (a b c : State) (old new : SyncState) (x : Receiver),
      a = (s.tracker t).waiting.foldl (takeWaiting t) (s.setWaiting t []) →
      old = (s.receiver t).sync → new = (if p.enable then .search else .off) →
      x = { a.receiver t with
            profile := p, sync := new, hits := 0, misses := 0, arrived := max (s.receiver t).arrived n,
            resume := max (s.receiver t).arrived n, boundary := none, frame := none } →
      b = (if old = new then a.setReceiver t x
          else
            postEvent .trunkSync (numWord t.val) 0 [statesWord old.number new.number] (a.setReceiver t x)) →
      c = endDelivery t .order b →
      reinitTrunk t p n s =
        c.setReceiver t
          { c.receiver t with
            counters :=
              { delivered := 0, flywheel := 0, syncLosses := 0, unmatched := 0, taken := 0, rejected := 0,
                refused := 0, shed := 0 } }

/-! ### Frames at the source tracker -/

/-- MINOR_FRAME_DELIVERED: the frame in collection is counted and reaches the tracker, which processes it,
or while RESTART holds the tracker lets it wait behind at most three others and else discards it (R10,
R175). WAITING_FRAME_PROCESSED: nothing is taken while RESTART holds the tracker; afterwards the first
waiting frame is processed, and the delivery-ended signals directly behind it are handled; with nothing
waiting, nothing is taken. A frame that finds others waiting then is processed after them, in their order (R175,
R34; log 6). How many bits have then arrived (log 3), that a word is its W low bits (log 4), and that a marked
frame which is discarded counts as a flywheel frame too (log 27) is the model's. -/
def Obligations.FramesReachTracker : Prop :=
  (∀ (t : Trunk) (words : List Word) (mark : Bool) (s : State),
    (∀ (x : Receiver) (c : Collection),
      x = s.receiver t → x.frame = some c → words.length = x.profile.words →
      exec (.minorFrameDelivered t words) s =
        .next (trackerFrame t (words.map (fun w => BitVec.ofNat 16 (w.toNat % 2 ^ x.profile.width))) c.mark
          (s.setReceiver t
            { x with
              arrived := max x.arrived (c.start + x.profile.words * x.profile.width), frame := none,
              counters :=
                { x.counters with
                  delivered := bump x.counters.delivered,
                  flywheel := if c.mark then bump x.counters.flywheel else x.counters.flywheel } }))) ∧
    (s.held t = true → waitingFrames (s.tracker t).waiting < 4 →
      trackerFrame t words mark s = s.setWaiting t ((s.tracker t).waiting ++ [.frame words mark])) ∧
    (s.held t = true → 4 ≤ waitingFrames (s.tracker t).waiting → trackerFrame t words mark s = s) ∧
    (s.held t = false → (s.tracker t).waiting = [] →
      trackerFrame t words mark s = processFrame t words mark s) ∧
    (∀ u : State, s.held t = false →
      u = (s.tracker t).waiting.foldl (takeWaiting t) (s.setWaiting t []) →
      trackerFrame t words mark s = processFrame t words mark u) ∧
    takeWaiting t s (.frame words mark) = processFrame t words mark s ∧
    takeWaiting t s .deliveryEnded = endDelivery t .traffic s) ∧
  ∀ (t : Trunk) (words : List Word) (mark : Bool) (k : Nat) (rest : List Waiting) (s : State),
    (s.held t = true → exec (.waitingFrameProcessed t) s = .next s) ∧
    ((s.tracker t).waiting = [] → exec (.waitingFrameProcessed t) s = .next s) ∧
    (s.held t = false →
      (s.tracker t).waiting = .frame words mark :: (List.replicate k .deliveryEnded ++ rest) →
      (∀ rest', rest ≠ .deliveryEnded :: rest') →
      exec (.waitingFrameProcessed t) s =
        .next ((List.range k).foldl
          (fun u i =>
            endDelivery t .traffic (u.setWaiting t (List.replicate (k - 1 - i) .deliveryEnded ++ rest)))
          (processFrame t words mark (s.setWaiting t (List.replicate k .deliveryEnded ++ rest)))))

/-- Sorting: a frame goes to row 0 of an untagged trunk, to the row with its tag value on a tagged trunk, and
else counts as one unmatched-tag frame; a row in UNFORMATTED takes it no further (R24, R25, R26). -/
def Obligations.FrameSorted : Prop :=
  ∀ (t : Trunk) (words : List Word) (mark : Bool) (s u : State) (x : Receiver) (v : Nat),
    x = s.receiver t → v = (words.getD (x.profile.tagPos - 1) 0).toNat →
    u = s.setReceiver t { x with counters := { x.counters with unmatched := bump x.counters.unmatched } } →
    (x.profile.tagPos = 0 → s.row t 0 = none → processFrame t words mark s = u) ∧
    (x.profile.tagPos ≠ 0 → (∀ (r : RowIx) (y : Row), s.row t r = some y → y.tag ≠ some v) →
      processFrame t words mark s = u) ∧
    (∀ y : Row, x.profile.tagPos = 0 → s.row t 0 = some y →
      processFrame t words mark s = rowFrame t 0 y words mark s) ∧
    (∀ (r : RowIx) (y : Row), x.profile.tagPos ≠ 0 → s.row t r = some y → y.tag = some v →
      (∀ (q : RowIx) (z : Row), s.row t q = some z → z.tag = some v → q = r) →
      processFrame t words mark s = rowFrame t r y words mark s) ∧
    (∀ (r : RowIx) (y : Row), y.cycle = .unformatted → rowFrame t r y words mark s = s)

/-- A row in CYCLE_SEARCH, M > 1: a number in range takes it to CYCLE_CHECK, or to CYCLE_LOCKED when the
verify count is 1, with a cycle boundary after frame M − 1; a number out of range leaves it (R28). With
M = 1 no ID word is read: CYCLE_SEARCH locks at the first frame, every frame of CYCLE_LOCKED is routed
locked as frame 0, and a cycle boundary follows each (R31); that the expected and the current number are
then 0 is the model's (log 18). -/
def Obligations.FrameInSearchOrSingleFrameCycle : Prop :=
  (∀ (t : Trunk) (r : RowIx) (x : Row) (h : Header) (words : List Word) (mark : Bool) (s : State) (v n : Nat),
    s.row t r = some x → x.cycle = .search → (s.activeBank x.format).header = some h → 1 < h.length →
    v = (words.getD (h.idPos - 1) 0).toNat → n = v - h.idBase →
    (h.idBase ≤ v → n < h.length → 1 < h.verify →
      ∀ y : Row, y = { x with cycle := .check, check := 1, expected := (n + 1) % h.length, current := n } →
      rowFrame t r x words mark s =
        routeFrame t r { locked := false, number := n } words mark
          (postCycleSync t r .search y (s.setRow t r (some y)))) ∧
    (h.idBase ≤ v → n < h.length → h.verify ≤ 1 →
      ∀ (y : Row) (u : State),
      y = { x with
            cycle := .locked, check := 0, miss := 0, expected := (n + 1) % h.length, current := n } →
      u = routeFrame t r { locked := true, number := n } words mark
            (postCycleSync t r .search y (s.setRow t r (some y))) →
      rowFrame t r x words mark s = if n + 1 = h.length then cycleBoundary t r u else u) ∧
    (v < h.idBase ∨ h.length ≤ n →
      rowFrame t r x words mark s =
        routeFrame t r { locked := false, number := x.current } words mark s)) ∧
  ∀ (t : Trunk) (r : RowIx) (x : Row) (h : Header) (words : List Word) (mark : Bool) (s : State),
    s.row t r = some x → (s.activeBank x.format).header = some h → h.length = 1 →
    (x.cycle = .search →
      ∀ y : Row,
      y = { x with cycle := .locked, check := 0, miss := 0, expected := 0, current := 0 } →
      rowFrame t r x words mark s =
        cycleBoundary t r (routeFrame t r { locked := true, number := 0 } words mark
          (postCycleSync t r .search y (s.setRow t r (some y))))) ∧
    (x.cycle = .locked →
      rowFrame t r x words mark s =
        cycleBoundary t r (routeFrame t r { locked := true, number := 0 } words mark
          (s.setRow t r (some { x with expected := 0, current := 0 }))))

/-- A row in CYCLE_CHECK, M > 1: the expected number is counted and locks the row at the verify count;
another number in range restarts the checking; one out of range returns the row to CYCLE_SEARCH (R29). -/
def Obligations.FrameInCycleCheck : Prop :=
  ∀ (t : Trunk) (r : RowIx) (x : Row) (h : Header) (words : List Word) (mark : Bool) (s : State) (v n : Nat),
    s.row t r = some x → x.cycle = .check → (s.activeBank x.format).header = some h → 1 < h.length →
    v = (words.getD (h.idPos - 1) 0).toNat → n = v - h.idBase →
    (h.idBase ≤ v → n < h.length → n = x.expected → x.check + 1 < h.verify →
      rowFrame t r x words mark s =
        routeFrame t r { locked := false, number := n } words mark
          (s.setRow t r (some
            { x with check := x.check + 1, expected := (n + 1) % h.length, current := n }))) ∧
    (h.idBase ≤ v → n < h.length → n = x.expected → h.verify ≤ x.check + 1 →
      ∀ (y : Row) (u : State),
      y = { x with
            cycle := .locked, check := 0, miss := 0, expected := (n + 1) % h.length, current := n } →
      u = routeFrame t r { locked := true, number := n } words mark
            (postCycleSync t r .check y (s.setRow t r (some y))) →
      rowFrame t r x words mark s = if n + 1 = h.length then cycleBoundary t r u else u) ∧
    (h.idBase ≤ v → n < h.length → n ≠ x.expected →
      rowFrame t r x words mark s =
        routeFrame t r { locked := false, number := n } words mark
          (s.setRow t r (some { x with check := 1, expected := (n + 1) % h.length, current := n }))) ∧
    (v < h.idBase ∨ h.length ≤ n →
      ∀ y : Row, y = { x with cycle := .search, check := 0 } →
      rowFrame t r x words mark s =
        routeFrame t r { locked := false, number := x.current } words mark
          (postCycleSync t r .check y (s.setRow t r (some y))))

/-- A row in CYCLE_LOCKED, M > 1: the frame has the expected number; an ID word that agrees clears the miss
count, any other raises it and counts a mismatch; at the miss limit lock is lost before an unlocked
routing, below it the frame is routed locked and frame M − 1 is followed by a cycle boundary (R30). -/
def Obligations.FrameInCycleLocked : Prop :=
  ∀ (t : Trunk) (r : RowIx) (x y : Row) (h : Header) (words : List Word) (mark : Bool) (s : State) (v : Nat),
    s.row t r = some x → x.cycle = .locked → (s.activeBank x.format).header = some h → 1 < h.length →
    v = (words.getD (h.idPos - 1) 0).toNat →
    y = (if h.idBase ≤ v ∧ v - h.idBase < h.length ∧ v - h.idBase = x.expected then { x with current := x.expected, miss := 0 }
        else
          { x with
            current := x.expected, miss := x.miss + 1, mismatches := bump x.mismatches }) →
    (y.miss < h.missLimit →
      ∀ u : State,
      u = routeFrame t r { locked := true, number := x.expected } words mark
            (s.setRow t r (some { y with expected := (x.expected + 1) % h.length })) →
      rowFrame t r x words mark s = if x.expected + 1 = h.length then cycleBoundary t r u else u) ∧
    (h.missLimit ≤ y.miss →
      rowFrame t r x words mark s =
        routeFrame t r { locked := false, number := x.expected } words mark
          (loseLock t r .traffic (s.setRow t r (some y))))

/-- A cycle boundary counts the cycle, breaks and counts every PARTIAL context of the format, and then the
switch control switches an ARMED standby, or counts a probation down and passes it at 0 (R32, R74). -/
def Obligations.CycleBoundaryTaken : Prop :=
  ∀ (t : Trunk) (r : RowIx) (x : Row) (s u : State),
    s.row t r = some x →
    u = (s.setRow t r (some
          { x with
            cycleCount := x.cycleCount + 1,
            broken := addTally x.broken (partialCount (s.contextsOf x.format)) })).setContexts x.format
          ((s.contextsOf x.format).map (fun c => { c with held := none })) →
    ((s.format x.format).standby = .armed →
      cycleBoundary t r s = switchFormat x.format .commit u) ∧
    ((s.format x.format).standby ≠ .armed → (s.format x.format).probation = none →
      cycleBoundary t r s = u) ∧
    (∀ n : Nat, (s.format x.format).standby ≠ .armed → (s.format x.format).probation = some n → 1 < n →
      cycleBoundary t r s =
        u.setFormat x.format { s.format x.format with probation := some (n - 1) }) ∧
    ((s.format x.format).standby ≠ .armed → (s.format x.format).probation = some 1 →
      cycleBoundary t r s =
        postEvent .probationPassed (numWord x.format.val)
          ((u.setFormat x.format { s.format x.format with probation := none }).boundCycleCount x.format)
          [numWord (s.format x.format).active.letter]
          (u.setFormat x.format { s.format x.format with probation := none }))

/-- A loss of lock counts the loss, posts CYCLE_SYNC, breaks and counts the PARTIAL contexts, and then the
switch control switches an ARMED standby with cause UNLOCK, or reverts a probation on a traffic cause
(R33, R70, R75). -/
def Obligations.LockLostHandled : Prop :=
  ∀ (t : Trunk) (r : RowIx) (x y : Row) (cause : LossCause) (s u : State),
    s.row t r = some x → x.cycle = .locked →
    y = { x with cycle := .search, miss := 0, check := 0, losses := bump x.losses } →
    u = breakCounted x.format t r
          (postEvent .cycleSync (numWord (t.val * 4 + r.val)) x.cycleCount
            [statesWord 3 1, frameWord x.format x.current] (s.setRow t r (some y))) →
    u.row t r = some { y with broken := addTally x.broken (partialCount (s.contextsOf x.format)) } ∧
    u.contextsOf x.format = (s.contextsOf x.format).map (fun c => { c with held := none }) ∧
    ((s.format x.format).standby = .armed → loseLock t r cause s = switchFormat x.format .unlock u) ∧
    ((s.format x.format).standby ≠ .armed → (s.format x.format).probation.isSome = true → cause = .traffic →
      loseLock t r cause s = switchFormat x.format .revert u) ∧
    ((s.format x.format).standby ≠ .armed →
      ((s.format x.format).probation = none ∨ cause = .order) → loseLock t r cause s = u)

/-- The delivery-ended signal takes the rows in turn, row 0 first: a locked row loses lock, a checking row
returns to CYCLE_SEARCH without a loss and posts CYCLE_SYNC, other rows stay (R34). With no frame waiting it
is handled at once; behind frames that wait while RESTART holds the tracker it waits too, and behind frames
that wait after RESTART it is handled when they have been processed (R175, R34; log 6). -/
def Obligations.DeliveryEndedHandled : Prop :=
  (∀ (t : Trunk) (s : State),
    ((s.tracker t).waiting = [] → trackerEnded t s = endDelivery t .traffic s) ∧
    (s.held t = true → (s.tracker t).waiting ≠ [] →
      trackerEnded t s = s.setWaiting t ((s.tracker t).waiting ++ [.deliveryEnded])) ∧
    ∀ u : State, s.held t = false →
      u = (s.tracker t).waiting.foldl (takeWaiting t) (s.setWaiting t []) →
      trackerEnded t s = endDelivery t .traffic u) ∧
  (∀ (t : Trunk) (cause : LossCause) (s : State), s.BindingsLawful →
    ∀ (r : RowIx) (x : Row), s.row t r = some x →
      (x.cycle = .locked →
        (endDelivery t cause s).row t r = some
          { x with
            cycle := .search, miss := 0, check := 0, losses := bump x.losses,
            broken := addTally x.broken (partialCount (s.contextsOf x.format)) }) ∧
      (x.cycle = .check →
        (endDelivery t cause s).row t r = some { x with cycle := .search, check := 0 }) ∧
      (x.cycle = .search ∨ x.cycle = .unformatted → (endDelivery t cause s).row t r = some x)) ∧
  ∀ (t : Trunk) (cause : LossCause) (s : State),
    endDelivery t cause s =
      endRow t cause (endRow t cause (endRow t cause (endRow t cause s 0) 1) 2) 3 ∧
    ∀ r : RowIx,
      (s.row t r = none → endRow t cause s r = s) ∧
      ∀ x : Row, s.row t r = some x →
        (x.cycle = .locked → endRow t cause s r = loseLock t r cause s) ∧
        (x.cycle = .check →
          endRow t cause s r =
            postEvent .cycleSync (numWord (t.val * 4 + r.val)) x.cycleCount
              [statesWord 2 1, frameWord x.format x.current]
              (s.setRow t r (some { x with cycle := .search, check := 0 }))) ∧
        (x.cycle = .search ∨ x.cycle = .unformatted → endRow t cause s r = s)

/-! ### The switch -/

/-- A switch exchanges the roles of the two banks of one format slot, sets its standby state and its
probation, moves, copies and frees no bank content, and gives the new active bank EMPTY contexts and
carried runtimes; the discarded PARTIAL contexts are counted on the bound row; then BANK_SWITCH is posted with
the bound row's cycle count, 0 for an unbound format; then the bound row is adjusted, and CYCLE_SYNC posted
if its cycle state changes; no other row, format slot, receiver, pool count or order state changes (R69, R50,
R72, R73, R79, R35). -/
def Obligations.SwitchExchangesRoles : Prop :=
  ∀ (f : Slot) (cause : SwitchCause) (s u : State) (old new : Bank),
    u = switchFormat f cause s → old = (s.format f).activeBank → new = (s.format f).standbyBank →
    u.format f =
      { active := (s.format f).active.other, bankA := (s.format f).bankA, bankB := (s.format f).bankB,
        standby :=
          (if cause = .revert then .staging else if old.header.isSome then .fallback else .empty),
        probation :=
          (if cause = .commit then
            match new.header with
            | none => none
            | some h => if 0 < h.probation then some h.probation else none
          else none) } ∧
    u.activeBank f = new ∧
    u.contextsOf f = new.params.map (fun d => { number := d.number, held := none }) ∧
    u.runtimesOf f = new.params.map (carryOne old (s.runtimesOf f)) ∧
    (∀ g : Slot, g ≠ f →
      u.format g = s.format g ∧ u.contextsOf g = s.contextsOf g ∧ u.runtimesOf g = s.runtimesOf g) ∧
    (∀ (t : Trunk) (r : RowIx),
      u.row t r =
        if s.boundRow f = some (t, r) then
          (s.row t r).map (fun x =>
            adjustRow new { x with broken := addTally x.broken (partialCount (s.contextsOf f)) })
        else s.row t r) ∧
    (∀ t : Trunk, (u.tracker t).waiting = (s.tracker t).waiting) ∧
    (s.boundRow f = none →
      u = postEvent .bankSwitch (numWord f.val) 0 [switchWord (u.format f) cause]
        { s with formats := u.formats, contexts := u.contexts, runtimes := u.runtimes }) ∧
    (∀ (t : Trunk) (r : RowIx) (x x' y : Row) (v : State), s.boundRow f = some (t, r) → s.row t r = some x →
      x' = { x with broken := addTally x.broken (partialCount (s.contextsOf f)) } → y = adjustRow new x' →
      v = (postEvent .bankSwitch (numWord f.val) x.cycleCount [switchWord (u.format f) cause]
            { s.setRow t r (some x') with
              formats := u.formats, contexts := u.contexts, runtimes := u.runtimes }).setRow t r (some y) →
      (y.cycle = x.cycle → u = v) ∧
      (y.cycle ≠ x.cycle →
        u = postEvent .cycleSync (numWord (t.val * 4 + r.val)) x.cycleCount
          [statesWord x.cycle.number y.cycle.number, frameWord f x.current] v)) ∧
    (∀ (x : FormatSlot),
      switchWord x cause =
        (BitVec.ofNat 4 (if x.active = .a then 0xA else 0xB) ++ BitVec.ofNat 4 cause.number ++
          BitVec.ofNat 4 x.standby.number ++ BitVec.ofNat 4 (x.probation.getD 0) : BitVec 16)) ∧
    u.freeSlots = s.freeSlots ∧ u.freeParams = s.freeParams ∧ u.receivers = s.receivers ∧
    u.orders = s.orders ∧ u.draws = s.draws ∧ u.pending = s.pending

/-- The runtime of a parameter across a switch: carried with latest value, sample count and last emitted
value when number, pieces and signedness agree, the limit machine when both definitions have limits and
otherwise at IN, the NTH count unless it is not below a new n; fresh otherwise (R77, R78). The bound row:
UNFORMATTED or CYCLE_CHECK enters CYCLE_SEARCH with check count 0, CYCLE_SEARCH stays, CYCLE_LOCKED stays
with its counts, its expected number becoming 0 when it is not below the new M (R35). -/
def Obligations.RuntimeAndRowAcrossSwitch : Prop :=
  (∀ (old : Bank) (es : List RuntimeEntry) (new : ParamDef) (rt : Runtime),
    rt = (carryOne old es new).runtime →
    (carryOne old es new).number = new.number ∧
    (∀ (d : ParamDef) (e : RuntimeEntry),
      old.definition? new.number = some d → es.find? (fun e => e.number == new.number) = some e →
      d.pieces = new.pieces → d.signed = new.signed →
      rt.latest = e.runtime.latest ∧ rt.samples = e.runtime.samples ∧ rt.emitted = e.runtime.emitted ∧
      (d.limits.isSome = true ∧ new.limits.isSome = true →
        rt.limit = e.runtime.limit ∧ rt.candidate = e.runtime.candidate ∧ rt.run = e.runtime.run) ∧
      (d.limits = none ∨ new.limits = none → rt.limit = .inside ∧ rt.candidate = none ∧ rt.run = 0) ∧
      (∀ n : Nat, new.emission = .nth n → n ≤ e.runtime.nth → rt.nth = 0) ∧
      ((∀ n : Nat, new.emission = .nth n → e.runtime.nth < n) → rt.nth = e.runtime.nth)) ∧
    ((∀ d : ParamDef, old.definition? new.number = some d → d.pieces ≠ new.pieces ∨ d.signed ≠ new.signed) →
      rt =
        { latest := none, samples := 0, limit := .inside, candidate := none, run := 0, nth := 0,
          emitted := none })) ∧
  ∀ (b : Bank) (h : Header) (x : Row), b.header = some h → x.Lawful →
    (x.cycle = .unformatted ∨ x.cycle = .check → adjustRow b x = { x with cycle := .search, check := 0 }) ∧
    (x.cycle = .search → adjustRow b x = x) ∧
    (x.cycle = .locked → x.expected < h.length → adjustRow b x = x) ∧
    (x.cycle = .locked → h.length ≤ x.expected → adjustRow b x = { x with expected := 0 })

/-! ### Routing and assembly -/

/-- A word past the sync field is looked up unless it is the tag word of a tagged trunk or, for M > 1, the
ID word (R82); an entry matches at its position when its interval is 1, or in a locked frame whose number
modulo the interval is the offset (R83). A frame is routed from its first word on, each matched word
becoming one piece of the matching entry's parameter, and a word that is not looked up or matches nothing
giving none (R81, R84, R85). -/
def Obligations.SlotEntryMatching : Prop :=
  (∀ (p : Profile) (h : Header) (pos : Nat),
    lookedUp p (some h) pos = true ↔
      p.syncWords < pos ∧ ¬(p.tagPos ≠ 0 ∧ pos = p.tagPos) ∧ ¬(1 < h.length ∧ pos = h.idPos)) ∧
  (∀ (pos : Nat) (st : Standing) (e : SlotEntry),
    entryMatches pos st e = true ↔
      e.pos = pos ∧ (e.interval = 1 ∨ (st.locked = true ∧ st.number % e.interval = e.offset))) ∧
  (∀ (t : Trunk) (r : RowIx) (x : Row) (st : Standing) (words : List Word) (mark : Bool) (s : State),
    s.row t r = some x →
    routeFrame t r st words mark s =
      routeWords (s.receiver t).profile (s.activeBank x.format) t r x.format st x.cycleCount mark 1 words s) ∧
  ∀ (p : Profile) (b : Bank) (t : Trunk) (r : RowIx) (f : Slot) (st : Standing) (cc : Count) (mark : Bool)
    (pos : Nat) (w : Word) (rest : List Word) (s : State),
    (∀ e : SlotEntry, lookedUp p b.header pos = true → b.slots.find? (entryMatches pos st) = some e →
      routeWords p b t r f st cc mark pos (w :: rest) s =
        routeWords p b t r f st cc mark (pos + 1) rest
          (takePiece
            { number := e.param, index := e.piece, value := w.toNat, width := p.width, mark := mark,
              frame := st.number, cycleCount := cc, trunk := t, row := r, format := f } s)) ∧
    (lookedUp p b.header pos = false ∨ (∀ e ∈ b.slots, entryMatches pos st e = false) →
      routeWords p b t r f st cc mark pos (w :: rest) s =
        routeWords p b t r f st cc mark (pos + 1) rest s)

/-- Two entries overlap exactly when they have the same word position and match it at some common frame
number (R45). -/
def Obligations.OverlapMeansCommonFrame : Prop :=
  ∀ x y : SlotEntry, x.InRange → y.InRange →
    (overlaps x y = true ↔
      x.pos = y.pos ∧ ∃ n : Nat, n % x.interval = x.offset ∧ n % y.interval = y.offset)

/-- A sample's value is the concatenation of its pieces, piece 0 most significant, of width pieces × W, read
as an unsigned number below 2^width, or as two's complement of that width (R90). -/
def Obligations.SampleValueReadsPieces : Prop :=
  ∀ (d : ParamDef) (c : Partial) (p : Piece) (vs : List Nat) (x : Sample), x = sampleOf d c p vs →
    1 ≤ d.pieces → vs.length = d.pieces → 1 ≤ c.width → (∀ v ∈ vs, v < 2 ^ c.width) →
    x.width = d.pieces * c.width ∧
    ∃ n : Nat, n < 2 ^ x.width ∧
      (∀ i : Nat, i < d.pieces →
        n / 2 ^ ((d.pieces - 1 - i) * c.width) % 2 ^ c.width = vs.getD i 0) ∧
      (d.signed = false → x.value = n) ∧
      (d.signed = true →
        x.value = (BitVec.ofNat x.width n).toInt ∧
        (n < 2 ^ (x.width - 1) → x.value = n) ∧
        (2 ^ (x.width - 1) ≤ n → x.value = (n : Int) - (2 : Int) ^ x.width))

/-- The assembly unit: the piece of a single-piece parameter is a sample at once (R88); the first piece of
a multi-piece parameter begins a PARTIAL context, a later one joins it, and the one that completes the set
gives the sample with the first piece's cycle count and any piece's mark (R89, R91). -/
def Obligations.PieceAssembled : Prop :=
  ∀ (p : Piece) (d : ParamDef) (i : Fin 4) (s : State),
    (s.activeBank p.format).definition? p.number = some d → p.index = i.val →
    (d.pieces = 1 → i = 0 →
      takePiece p s =
        takeSample
          { number := p.number, format := p.format, trunk := p.trunk, row := p.row,
            value := readValue d.signed p.width p.value, width := p.width, signed := d.signed,
            frame := p.frame, cycleCount := p.cycleCount, mark := p.mark }
          (s.setContexts p.format (replaceContext p.number none (s.contextsOf p.format)))) ∧
    (2 ≤ d.pieces → d.pieces ≤ 4 → heldContext p.number (s.contextsOf p.format) = none →
      takePiece p s =
        s.setContexts p.format
          (replaceContext p.number
            (some
              { pieces := put (Vector.replicate 4 none) i (some p.value), width := p.width,
                cycleCount := p.cycleCount, trunk := p.trunk, row := p.row, format := p.format,
                mark := p.mark })
            (s.contextsOf p.format))) ∧
    (∀ c c' : Partial, 2 ≤ d.pieces → d.pieces ≤ 4 →
      heldContext p.number (s.contextsOf p.format) = some c →
      c' = { c with pieces := put c.pieces i (some p.value), mark := c.mark || p.mark } →
      ((∃ j : Fin 4, j.val < d.pieces ∧ pick c'.pieces j = none) →
        takePiece p s =
          s.setContexts p.format (replaceContext p.number (some c') (s.contextsOf p.format))) ∧
      (∀ vs : List Nat, vs.length = d.pieces →
        (∀ j : Fin 4, j.val < d.pieces → pick c'.pieces j = vs[j.val]?) →
        takePiece p s =
          takeSample
            { number := p.number, format := c.format, trunk := c.trunk, row := c.row,
              value := readValue d.signed (d.pieces * c.width) (concatPieces c.width vs),
              width := d.pieces * c.width, signed := d.signed, frame := p.frame,
              cycleCount := c.cycleCount, mark := c.mark || p.mark }
            (s.setContexts p.format (replaceContext p.number none (s.contextsOf p.format)))))

/-! ### Evaluation -/

/-- The class of a value against limits (R102), and the limit machine: agreement clears the run; a new class
begins or lengthens a run, which changes the state and forces the sample when it reaches the persistence
(R103). -/
def Obligations.LimitMachineStep : Prop :=
  (∀ (l : Limits) (v : Int), l.lo ≤ l.hi →
    (classOf l v = .low ↔ v < l.lo) ∧ (classOf l v = .high ↔ l.hi < v) ∧
    (classOf l v = .inside ↔ l.lo ≤ v ∧ v ≤ l.hi)) ∧
  ∀ (p : Nat) (c : LimitClass) (rt : Runtime),
    (c = rt.limit → limitStep p c rt = ({ rt with candidate := none, run := 0 }, false)) ∧
    (c ≠ rt.limit → rt.candidate = some c → p ≤ rt.run + 1 →
      limitStep p c rt = ({ rt with limit := c, candidate := none, run := 0 }, true)) ∧
    (c ≠ rt.limit → rt.candidate = some c → rt.run + 1 < p →
      limitStep p c rt = ({ rt with run := rt.run + 1 }, false)) ∧
    (c ≠ rt.limit → rt.candidate ≠ some c → p ≤ 1 →
      limitStep p c rt = ({ rt with limit := c, candidate := none, run := 0 }, true)) ∧
    (c ≠ rt.limit → rt.candidate ≠ some c → 1 < p →
      limitStep p c rt = ({ rt with candidate := some c, run := 1 }, false))

/-- The emission decision: every sample under EVERY (R105); under NTH the count rises and the sample that
makes it n is emitted and clears it, forcing or not (R106); under CHANGE the first sample and those farther
than the deadband from the last emitted value (R107); a forced sample always (R108); an emitted sample's
value becomes the last emitted value (R109). -/
def Obligations.EmissionDecision : Prop :=
  ∀ (forced : Bool) (v : Int) (rt : Runtime),
    emitStep .every forced v rt = ({ rt with emitted := some v }, true) ∧
    (∀ n : Nat, rt.nth + 1 = n → emitStep (.nth n) forced v rt = ({ rt with nth := 0, emitted := some v }, true)) ∧
    (∀ n : Nat, rt.nth + 1 ≠ n →
      emitStep (.nth n) true v rt = ({ rt with nth := rt.nth + 1, emitted := some v }, true) ∧
      emitStep (.nth n) false v rt = ({ rt with nth := rt.nth + 1 }, false)) ∧
    (∀ d : Nat, rt.emitted = none → emitStep (.change d) forced v rt = ({ rt with emitted := some v }, true)) ∧
    (∀ (d : Nat) (last : Int), rt.emitted = some last → (d : Int) < |v - last| →
      emitStep (.change d) forced v rt = ({ rt with emitted := some v }, true)) ∧
    ∀ (d : Nat) (last : Int), rt.emitted = some last → |v - last| ≤ (d : Int) →
      emitStep (.change d) false v rt = (rt, false) ∧
      emitStep (.change d) true v rt = ({ rt with emitted := some v }, true)

/-- Taking a sample makes it the latest value and counts it (R101), and changes nothing but that runtime,
the links and the event unit (R100). The limit machine runs where there is a limits part, a forced sample
posts LIMIT (R104), the emission is decided, and an emitted sample's record is placed toward the
definition's link (R110). -/
def Obligations.SampleTakenOnce : Prop :=
  ∀ (x : Sample) (d : ParamDef) (rt : Runtime) (s u : State),
    (s.activeBank x.format).definition? x.number = some d → s.runtime? x.format x.number = some rt →
    u = takeSample x s →
    (∃ rt' : Runtime, u.runtimesOf x.format = replaceRuntime x.number rt' (s.runtimesOf x.format) ∧
      u.runtime? x.format x.number = some rt' ∧
      rt'.latest =
        some
          { value := x.value, width := x.width, cycleCount := x.cycleCount, frame := x.frame, mark := x.mark } ∧
      rt'.samples = BitVec.ofNat 32 (min (rt.samples.toNat + 1) 0xFFFFFFFF)) ∧
    (∀ g : Slot, g ≠ x.format → u.runtimesOf g = s.runtimesOf g) ∧
    u = { s with runtimes := u.runtimes, links := u.links, events := u.events } ∧
    ∀ (noted : Runtime) (limited decided : Runtime × Bool) (a b : State),
      noted =
        { rt with
          latest :=
            some
              { value := x.value, width := x.width, cycleCount := x.cycleCount, frame := x.frame, mark := x.mark },
          samples := bump rt.samples } →
      (d.limits = none → limited = (noted, false)) →
      (∀ l : Limits, d.limits = some l → limited = limitStep l.persistence (classOf l x.value) noted) →
      decided = emitStep d.emission limited.2 x.value limited.1 →
      a = (if limited.2 = true then
            postEvent .limit (limitSubject noted.limit limited.1.limit x.number) x.cycleCount
              (valueWords ((x.width + 15) / 16) x.value) s
          else s) →
      b = a.setRuntimes x.format (replaceRuntime x.number decided.1 (a.runtimesOf x.format)) →
      (decided.2 = false → u = b) ∧
      (decided.2 = true →
        u = placeSample d.link x.number
          (sampleRecord x limited.2 (d.limits.map (fun _ => limited.1.limit))) b)

/-- Every record's header gives its kind and its whole length: 6 to 9 words for a sample record of a value
of 1 to 64 bits, 5 to 8 for an event record, 4 to 60 for a reply record (R110, R134, R152, Table 11-3). A
sample record then has its flags and limit state, parameter, trunk and row, cycle count, format slot and
frame number, and the value in words, most significant first, extended by its sign when signed and by zeros
when not (R110, Table 11-4). An event record has its subject, cycle count and details (Table 11-5), a reply
record its trunk, last-record flag and sequence number, the order's header word, the detail and the body
(Table 11-7). -/
def Obligations.RecordHeadersGiveLength : Prop :=
  (∀ (x : Sample) (forced : Bool) (limit : Option LimitClass) (r : Record), r = sampleRecord x forced limit →
    1 ≤ x.width → x.width ≤ 64 →
    r.length = 5 + (x.width + 15) / 16 ∧
    (∀ w : Word, w = r.headD 0 →
      field w 14 2 = 1 ∧ field w 8 6 = r.length ∧ w.getLsbD 7 = x.mark ∧ w.getLsbD 6 = forced ∧
      w.getLsbD 5 = limit.isSome ∧ field w 2 3 = 0 ∧
      field w 0 2 = (match limit with | none => 0 | some .inside => 0 | some .low => 1 | some .high => 2)) ∧
    (∀ w : Word, w = r.getD 1 0 →
      (x.number ≤ 4095 → field w 4 12 = x.number) ∧ field w 2 2 = x.trunk.val ∧ field w 0 2 = x.row.val) ∧
    r.getD 2 0 = x.cycleCount.extractLsb' 16 16 ∧ r.getD 3 0 = x.cycleCount.extractLsb' 0 16 ∧
    (∀ w : Word, w = r.getD 4 0 →
      field w 11 5 = 0 ∧ field w 8 3 = x.format.val ∧ (x.frame ≤ 255 → field w 0 8 = x.frame)) ∧
    ∀ n : Nat, n = (x.width + 15) / 16 → r.drop 5 = valueWords n x.value) ∧
  (∀ (n : Nat) (v : Int), (valueWords n v).length = n ∧
    (-(2 : Int) ^ (16 * n) ≤ 2 * v → 2 * v < (2 : Int) ^ (16 * n) →
      ((valueWords n v).foldl (fun (a : BitVec (16 * n)) (w : Word) => (a <<< 16) ||| w.setWidth (16 * n)) 0).toInt
        = v) ∧
    (0 ≤ v → v < (2 : Int) ^ (16 * n) →
      (((valueWords n v).foldl (fun (a : Nat) (w : Word) => a * 65536 + w.toNat) 0 : Nat) : Int) = v)) ∧
  (∀ (k : EventKind) (subject : Word) (cc : Count) (details : List Word),
    1 ≤ details.length → details.length ≤ 4 →
    (eventRecord k subject cc details).length = 4 + details.length ∧
    field ((eventRecord k subject cc details).headD 0) 8 6 = 4 + details.length ∧
    field ((eventRecord k subject cc details).headD 0) 14 2 = 2 ∧
    field ((eventRecord k subject cc details).headD 0) 0 8 = k.code ∧
    (eventRecord k subject cc details).tail =
      subject :: cc.extractLsb' 16 16 :: cc.extractLsb' 0 16 :: details) ∧
  ∀ (o : QueuedOrder) (status : Status) (detail : Word) (last : Bool) (seq : Nat) (body : List Word)
    (r : Record), r = replyRecord o status detail last seq body → body.length ≤ 56 →
    r.length = 4 + body.length ∧ field (r.headD 0) 8 6 = 4 + body.length ∧ field (r.headD 0) 14 2 = 3 ∧
    field (r.headD 0) 0 8 = status.number ∧
    (∀ w : Word, w = r.getD 1 0 →
      field w 10 6 = 0 ∧ field w 8 2 = o.trunk.val ∧ w.getLsbD 7 = last ∧ w.getLsbD 6 = false ∧
      (seq ≤ 63 → field w 0 6 = seq)) ∧
    r.drop 2 = o.header :: detail :: body

/-! ### Record links -/

/-- LINK_UP takes a DOWN link to UP with no credit and empty lanes (R117); LINK_DOWN takes any other link to
DOWN, every record of both lanes flushed and counted, and sets free an engine that waits there (R118,
R126). CREDIT_RETURN: in UP one more credit up to 63, the stall timer idle and the arbiter asked; in
STALLED the link is UP with one credit; in DOWN it is ignored (R119). That LINK_UP of a link that is not
DOWN, and LINK_DOWN of one that is, changes nothing is the model's (log 1). -/
def Obligations.ReadyLineAndCredits : Prop :=
  (∀ (l : Link) (s : State) (lk : LinkTx), lk = s.link l →
    (lk.state = .down →
      exec (.linkUp l) s =
        .next (s.setLink l
          { lk with
            state := .up, ready := true, credits := 0, control := [], sample := [], sending := none,
            burst := 0, timer := none })) ∧
    (lk.state ≠ .down → exec (.linkUp l) s = .next s) ∧
    (lk.state ≠ .down →
      exec (.linkDown l) s =
        .next (giveNotice l .leftUp (s.setLink l
          { lk with
            state := .down, ready := false, credits := 0, control := [], sample := [], sending := none,
            burst := 0, overrunArmed := true, timer := none,
            counters :=
              { lk.counters with
                sampleFlushed := addTally lk.counters.sampleFlushed lk.sample.length,
                controlFlushed := addTally lk.counters.controlFlushed lk.control.length } }))) ∧
    (lk.state = .down → exec (.linkDown l) s = .next s)) ∧
  ∀ (l : Link) (s : State) (lk : LinkTx), lk = s.link l →
    (lk.state = .up →
      exec (.creditReturn l) s =
        .next (s.setLink l ({ lk with credits := min 63 (lk.credits + 1), timer := none } : LinkTx).settle)) ∧
    (lk.state = .stalled → lk.control = [] → lk.sample = [] →
      exec (.creditReturn l) s =
        .next (s.setLink l { lk with state := .up, credits := 1, timer := none })) ∧
    (lk.state = .down → exec (.creditReturn l) s = .next s)

/-- STALL_TIMER_EXPIRY of a running timer: the link is STALLED, both lanes flushed and counted, the stall
counted, LINK_STALLED posted on the other link with the numbers flushed and the stall time, and a waiting
engine set free (R121, R126). A timer that is idle does not expire (log 1). When the command comes is the
sender's (log 9); the stall time reported is the present setting (log 15). A step with no command waiting is
one unit of 4 ms (log 7): running timers count down by one and one that reaches 0 expires; which of two goes
first is a free value (log 8). -/
def Obligations.StallTimerExpires : Prop :=
  (∀ (l : Link) (s : State) (lk : LinkTx), lk = s.link l →
    (lk.timer.isSome = true →
      exec (.stallTimerExpiry l) s = .next (expireTimer l s) ∧
      expireTimer l s =
        giveNotice l .leftUp
          (postLinkStalled l lk.sample.length lk.control.length lk.stallTime (s.setLink l
            { lk with
              state := .stalled, control := [], sample := [], sending := none, burst := 0,
              overrunArmed := true, timer := none,
              counters :=
                { lk.counters with
                  sampleFlushed := addTally lk.counters.sampleFlushed lk.sample.length,
                  controlFlushed := addTally lk.counters.controlFlushed lk.control.length,
                  stalls := bump lk.counters.stalls } }))) ∧
    (lk.timer = none → exec (.stallTimerExpiry l) s = .next s)) ∧
  ∀ s u : State, s.pending = [] →
    u = { s with
          links :=
            #v[{ s.link 0 with timer := (s.link 0).timer.map (fun n => n - 1) },
              { s.link 1 with timer := (s.link 1).timer.map (fun n => n - 1) }] } →
    ((u.link 0).timer ≠ some 0 → (u.link 1).timer ≠ some 0 → step s = .next u) ∧
    ((u.link 0).timer = some 0 → (u.link 1).timer ≠ some 0 → step s = .next (expireTimer 0 u)) ∧
    ((u.link 0).timer ≠ some 0 → (u.link 1).timer = some 0 → step s = .next (expireTimer 1 u)) ∧
    ((u.link 0).timer = some 0 → (u.link 1).timer = some 0 →
      step s =
        .next (if Config.linkZeroExpiresFirst s.draws then (expireTimer 1 (expireTimer 0 u)).draw
          else (expireTimer 0 (expireTimer 1 u)).draw))

/-- RECORD_SENT: the record leaves the head of its lane and is counted; a control record gives the room
notice, a sample record arms the overrun report at 256 or below; the next start is considered (R129). That the
sending of a record is one event (log 24), and that with nothing in transmission it changes nothing (log 1),
is the model's. -/
def Obligations.RecordLeavesItsLane : Prop :=
  ∀ (l : Link) (s : State) (lk : LinkTx), lk = s.link l →
    (lk.sending = none → exec (.recordSent l) s = .next s) ∧
    (∀ (r : Record) (rest : List Record), lk.sending = some .control → lk.control = r :: rest →
      exec (.recordSent l) s =
        .next (giveNotice l .departed (s.setLink l
          ({ lk with
             control := rest, sending := none,
             counters := { lk.counters with controlSent := bump lk.counters.controlSent } } : LinkTx).settle))) ∧
    ∀ (r : Record) (rest : List Record), lk.sending = some .sample → lk.sample = r :: rest →
      exec (.recordSent l) s =
        .next (s.setLink l
          ({ lk with
             sample := rest, sending := none,
             overrunArmed := (lk.overrunArmed || decide (rest.length ≤ 256)),
             counters := { lk.counters with sampleSent := bump lk.counters.sampleSent } } : LinkTx).settle)

/-- The arbiter: the control lane first while fewer than 8 control records in a row were started or no
sample waits, then the sample lane; each start takes one credit (R128). The stall timer then runs exactly
while the link is UP without credit and a record has not been started, keeping its remaining time or
starting with the stall time (R121). -/
def Obligations.ArbiterStartsRecords : Prop :=
  ∀ lk : LinkTx,
    (lk.state = .up → 0 < lk.credits → lk.sending = none → lk.control ≠ [] →
      (lk.burst < 8 ∨ lk.sample = []) →
      lk.start =
        { lk with credits := lk.credits - 1, sending := some .control, burst := min 8 (lk.burst + 1) }) ∧
    (lk.state = .up → 0 < lk.credits → lk.sending = none → lk.sample ≠ [] →
      (lk.control = [] ∨ 8 ≤ lk.burst) →
      lk.start = { lk with credits := lk.credits - 1, sending := some .sample, burst := 0 }) ∧
    (lk.state ≠ .up ∨ lk.credits = 0 ∨ lk.sending ≠ none ∨ (lk.control = [] ∧ lk.sample = []) →
      lk.start = lk) ∧
    lk.settle = lk.start.runTimer ∧
    (lk.state = .up ∧ lk.credits = 0 ∧
        (if lk.sending = none then 0 else 1) < lk.control.length + lk.sample.length →
      lk.runTimer = { lk with timer := some (lk.timer.getD lk.stallTime) }) ∧
    (¬(lk.state = .up ∧ lk.credits = 0 ∧
        (if lk.sending = none then 0 else 1) < lk.control.length + lk.sample.length) →
      lk.runTimer = { lk with timer := none })

/-- A sample record placed toward a link: accepted at the tail while UP with fewer than 512 records;
otherwise counted as dropped, and LANE_OVERRUN is posted once for a full lane whose report is armed (R123,
R124, R125). -/
def Obligations.SampleRecordPlaced : Prop :=
  ∀ (l : Link) (number : Nat) (r : Record) (s : State) (lk dropped : LinkTx), lk = s.link l →
    dropped = { lk with counters := { lk.counters with dropped := bump lk.counters.dropped } } →
    (lk.state = .up → lk.sample.length < 512 →
      placeSample l number r s =
        s.setLink l ({ lk with sample := lk.sample ++ [r] } : LinkTx).settle) ∧
    (lk.state ≠ .up → placeSample l number r s = s.setLink l dropped) ∧
    (lk.state = .up → 512 ≤ lk.sample.length → lk.overrunArmed = false →
      placeSample l number r s = s.setLink l dropped) ∧
    (lk.state = .up → 512 ≤ lk.sample.length → lk.overrunArmed = true →
      placeSample l number r s =
        postEvent .laneOverrun (numWord l.val) 0 [numWord number]
          (s.setLink l { dropped with overrunArmed := false }))

/-- An event: dropped when its kind is not enabled; else its record is accepted at the tail of the event
link's control lane while that link is UP with fewer than 32 records, and counted lost otherwise (R135,
R136, R139). LINK_STALLED goes to the other link (R121). A second refused frame of a trunk, and a second
shed frame of any trunk, posts nothing more; an armed and enabled report is placed and disarmed (R137,
R138). LINK_STALLED not enabled, and a report not enabled or not armed, leaves everything as it is (R135). -/
def Obligations.EventPlacedLostOrReportedOnce : Prop :=
  ((∀ (k : EventKind) (subject : Word) (cc : Count) (details : List Word) (s : State),
    (s.events.enabled.getLsbD (k.code - 1) = false → postEvent k subject cc details s = s) ∧
    (s.events.enabled.getLsbD (k.code - 1) = true →
      postEvent k subject cc details s = placeEvent s.events.link (eventRecord k subject cc details) s)) ∧
  (∀ (l : Link) (r : Record) (s : State),
    ((s.link l).state = .up → (s.link l).control.length < 32 →
      placeEvent l r s =
        s.setLink l ({ s.link l with control := (s.link l).control ++ [r] } : LinkTx).settle) ∧
    ((s.link l).state ≠ .up ∨ 32 ≤ (s.link l).control.length →
      placeEvent l r s =
        { s with
          events :=
            { s.events with lost := BitVec.ofNat 32 (min (s.events.lost.toNat + 1) 0xFFFFFFFF) } })) ∧
  ∀ (samples controls stallTime : Nat) (s : State), s.events.enabled.getLsbD 6 = true →
    postLinkStalled 0 samples controls stallTime s =
      placeEvent 1 (eventRecord .linkStalled 0 0 [numWord samples, numWord controls, numWord stallTime]) s ∧
    postLinkStalled 1 samples controls stallTime s =
      placeEvent 0 (eventRecord .linkStalled 1 0 [numWord samples, numWord controls, numWord stallTime]) s) ∧
  (∀ (l : Link) (samples controls stallTime : Nat) (s : State), s.events.enabled.getLsbD 6 = false →
    postLinkStalled l samples controls stallTime s = s) ∧
  ∀ (t t' : Trunk) (h h' : Word) (s : State),
    postOrderRefused t h' (postOrderRefused t h s) = postOrderRefused t h s ∧
    postOrdersShed t' h' (postOrdersShed t h s) = postOrdersShed t h s ∧
    (s.events.enabled.getLsbD 8 = true → s.events.refusalArmed.getLsbD t.val = true →
      postOrderRefused t h s =
        placeEvent s.events.link (eventRecord .orderRefused (numWord t.val) 0 [h])
          (s.setEvents
            { s.events with refusalArmed := s.events.refusalArmed &&& ~~~(1#4 <<< t.val) })) ∧
    (s.events.enabled.getLsbD 8 = false ∨ s.events.refusalArmed.getLsbD t.val = false →
      postOrderRefused t h s = s) ∧
    (s.events.enabled.getLsbD 7 = false ∨ s.events.shedArmed = false → postOrdersShed t h s = s) ∧
    (s.events.enabled.getLsbD 7 = true → s.events.shedArmed = true →
      postOrdersShed t h s =
        placeEvent s.events.link (eventRecord .ordersShed (numWord t.val) 0 [h])
          (s.setEvents { s.events with shedArmed := false }))

/-! ### The order unit -/

/-- A handed order frame: refused and counted outside the accept set (R144); silently dropped when a queued
order of its trunk has its non-zero tag (R145); shed and counted when eight are queued, else queued at the
tail (R146), and taken at once by an IDLE engine (R148). A frame that passes the accept test arms its trunk's
refusal report (R138, R144), and a take that leaves the queue empty arms the shed report, no other (R137,
R148). -/
def Obligations.HandedFrameTested : Prop :=
  (∀ s : State,
    (s.orders.engine ≠ .idle ∨ s.orders.queue = [] → takeNext s = s) ∧
    ∀ (q : QueuedOrder) (rest : List QueuedOrder) (u : State),
      s.orders.engine = .idle → s.orders.queue = q :: rest →
      u = s.setOrders { s.orders with engine := .executing q, queue := rest } →
      (rest = [] → takeNext s = u.setEvents { s.events with shedArmed := true }) ∧
      (rest ≠ [] → takeNext s = u)) ∧
  ∀ (o : QueuedOrder) (s a : State) (x : Receiver), x = s.receiver o.trunk →
    a = s.setEvents { s.events with refusalArmed := s.events.refusalArmed ||| (1#4 <<< o.trunk.val) } →
    (inTrunks s.orders.accept o.trunk = false →
      handOrder o s =
        postOrderRefused o.trunk o.header (s.setReceiver o.trunk
          { x with counters := { x.counters with refused := bump x.counters.refused } })) ∧
    (inTrunks s.orders.accept o.trunk = true → o.tag ≠ 0 →
      (∃ q ∈ s.orders.queue, q.trunk = o.trunk ∧ q.tag = o.tag) → handOrder o s = a) ∧
    (inTrunks s.orders.accept o.trunk = true →
      (o.tag = 0 ∨ ∀ q ∈ s.orders.queue, q.trunk = o.trunk → q.tag ≠ o.tag) →
      (8 ≤ s.orders.queue.length →
        handOrder o s =
          postOrdersShed o.trunk o.header (a.setReceiver o.trunk
            { x with counters := { x.counters with shed := bump x.counters.shed } })) ∧
      (s.orders.queue.length < 8 → s.orders.engine ≠ .idle →
        handOrder o s = a.setOrders { s.orders with queue := s.orders.queue ++ [o] }) ∧
      (s.orders.queue = [] → s.orders.engine = .idle →
        handOrder o s =
          (a.setOrders { s.orders with engine := .executing o }).setEvents
            { a.events with shedArmed := true }))

/-- A reply with room for all its records: they stand in order at the tail of the reply link's control lane,
numbered from 0, the last one flagged (R152); the order is then dropped, the engine takes the next one or
is IDLE (R148), and a non-zero tag has its row of reply memory with the final record (R154). Records are
placed one at a time: toward a link that is UP with room a record stands at the tail of the lane, toward one
that is not UP it is discarded, and the next is placed (R152); toward a full control lane the engine holds the
record and waits, taking no order (R153). Records left for a later command stay with the engine, and the link
may change before they are placed (R152; log 26). Whatever the answer, a reply changes the reply link, the
order unit and the shed report alone, and of reply memory the order's own row alone. -/
def Obligations.RepliesPlacedDiscardedOrHeld : Prop :=
  (∀ (o : QueuedOrder) (reply : Reply) (n : Nat) (s u : State), u = answerUpTo n o reply s ∨ u = answer o reply s →
    u = { s with links := u.links, events := u.events, orders := u.orders } ∧
    (∀ l : Link, l ≠ o.replyLink → u.link l = s.link l) ∧ (u.link o.replyLink).sample = (s.link o.replyLink).sample ∧
    u.events = { s.events with shedArmed := u.events.shedArmed } ∧ u.orders.accept = s.orders.accept ∧
    ∀ t : Trunk, t ≠ o.trunk → pick u.orders.memory t = pick s.orders.memory t) ∧
  (∀ (o : QueuedOrder) (reply : Reply) (s u : State) (final : Record),
    (s.link o.replyLink).state = .up →
    (s.link o.replyLink).control.length + reply.bodies.length ≤ 32 →
    (replyRecords o reply).getLast? = some final → u = answer o reply s →
    (u.link o.replyLink).control = (s.link o.replyLink).control ++ replyRecords o reply ∧
    (∀ (i : Nat) (body : List Word), reply.bodies[i]? = some body →
      (replyRecords o reply)[i]? =
        some (replyRecord o reply.status reply.detail (decide (i + 1 = reply.bodies.length)) i body)) ∧
    (o.tag ≠ 0 →
      pick u.orders.memory o.trunk = some { tag := o.tag, code := o.code, record := final }) ∧
    (o.tag = 0 → u.orders.memory = s.orders.memory) ∧
    (s.orders.queue = [] → u.orders.engine = .idle ∧ u.orders.queue = []) ∧
    ∀ (q : QueuedOrder) (rest : List QueuedOrder), s.orders.queue = q :: rest →
      u.orders.engine = .executing q ∧ u.orders.queue = rest) ∧
  (∀ (o : QueuedOrder) (reply : Reply) (n : Nat) (s : State),
    answer o reply s = placeReplies o ((replyRecords o reply).getLast?.getD []) [] (replyRecords o reply) s ∧
    answerUpTo n o reply s =
      placeReplies o ((replyRecords o reply).getLast?.getD []) ((replyRecords o reply).drop n)
        ((replyRecords o reply).take n) s) ∧
  ∀ (o : QueuedOrder) (final r : Record) (rest later : List Record) (s : State),
    ((s.link o.replyLink).state = .up → (s.link o.replyLink).control.length < 32 →
      placeReplies o final later (r :: rest) s =
        placeReplies o final later rest
          (s.setLink o.replyLink
            ({ s.link o.replyLink with control := (s.link o.replyLink).control ++ [r] } : LinkTx).settle)) ∧
    ((s.link o.replyLink).state ≠ .up →
      placeReplies o final later (r :: rest) s = placeReplies o final later rest s) ∧
    ((s.link o.replyLink).state = .up → 32 ≤ (s.link o.replyLink).control.length →
      placeReplies o final later (r :: rest) s =
        s.setOrders { s.orders with engine := .replying o r (rest ++ later), notice := none }) ∧
    placeReplies o final (r :: later) [] s =
      s.setOrders { s.orders with engine := .placing o r later, notice := none } ∧
    placeReplies o final [] [] s = finishOrder o final s

/-- ROOM_NOTICE: for a departure the held record is placed again, or held on when the lane is full again, or
discarded when the link is not UP by then; for a link that left UP it is discarded and the reply goes on (R153).
The link gives the notice to an engine that waits on it, at the first of the two events and once (R126); that
it is held until the engine takes it is the model's (log 16), and how many further records the command places
(log 26). -/
def Obligations.RoomNoticeTaken : Prop :=
  ∀ (n : Nat) (o : QueuedOrder) (held final : Record) (rest : List Record) (s u : State),
    s.orders.engine = .replying o held rest → u = s.setOrders { s.orders with notice := none } →
    final = (held :: rest).getLast?.getD [] →
    (s.orders.notice = some .departed → (s.link o.replyLink).state = .up →
      32 ≤ (s.link o.replyLink).control.length → exec (.roomNotice n) s = .next u) ∧
    (s.orders.notice = some .departed → (s.link o.replyLink).state = .up →
      (s.link o.replyLink).control.length < 32 →
      exec (.roomNotice n) s =
        .next (placeReplies o final (rest.drop n) (rest.take n)
          (u.setLink o.replyLink
            ({ s.link o.replyLink with control := (s.link o.replyLink).control ++ [held] } : LinkTx).settle))) ∧
    (s.orders.notice = some .leftUp ∨
        (s.orders.notice = some .departed ∧ (s.link o.replyLink).state ≠ .up) →
      exec (.roomNotice n) s = .next (placeReplies o final (rest.drop n) (rest.take n) u)) ∧
    ∀ k : RoomNotice,
      (s.orders.notice = none →
        giveNotice o.replyLink k s = s.setOrders { s.orders with notice := some k }) ∧
      (s.orders.notice ≠ none → giveNotice o.replyLink k s = s) ∧
      ∀ l : Link, l ≠ o.replyLink → giveNotice l k s = s

/-- A tagged state-changing order whose trunk's reply memory holds its tag and code is not executed: the
stored record is placed toward the link the new order names (R149, R155). The frame checks of an order that
no stored reply answers: a reserved bit of the control word is answered BAD_ARGUMENT with detail 0FFFFH,
then a body count that is not permitted BAD_LENGTH with the count, and nothing else changes (R150). No stored
reply answers an untracked order, a read-only one, or one whose trunk's row is empty or holds another tag or
code (R149). The codes and the permitted body counts are those of Table 10-1 (R157). -/
def Obligations.OrderReplayedOrFrameChecked : Prop :=
  (∀ (n k code : Nat) (bits : Vector Nat 4) (c : Instr) (o : QueuedOrder) (m : MemoryRow) (s : State),
    (code, c) ∈
      [(0x01, Instr.setTrunk n k), (0x02, Instr.bindSource), (0x03, Instr.unbindSource k),
       (0x10, Instr.stageHeader), (0x11, Instr.stageSlots), (0x12, Instr.stageParams),
       (0x13, Instr.discardStage), (0x14, Instr.commit), (0x15, Instr.cancelCommit),
       (0x20, Instr.tuneParam), (0x24, Instr.clearCounters), (0x30, Instr.setOrderAccept),
       (0x31, Instr.setEvents), (0x3F, Instr.restart n bits)] →
    s.orders.engine = .executing o → o.code = code → o.tag ≠ 0 →
    pick s.orders.memory o.trunk = some m → m.tag = o.tag → m.code = o.code →
    exec c s = .next (placeReplies o m.record [] [m.record] s)) ∧
  (∀ (n k code : Nat) (bits : Vector Nat 4) (c : Instr) (o : QueuedOrder) (s : State),
    (code, c) ∈
      [(0x00, Instr.echo), (0x01, Instr.setTrunk n k), (0x02, Instr.bindSource), (0x03, Instr.unbindSource k),
       (0x10, Instr.stageHeader), (0x11, Instr.stageSlots), (0x12, Instr.stageParams),
       (0x13, Instr.discardStage), (0x14, Instr.commit), (0x15, Instr.cancelCommit),
       (0x20, Instr.tuneParam), (0x21, Instr.readParam), (0x22, Instr.readBank n), (0x23, Instr.readStatus n),
       (0x24, Instr.clearCounters), (0x30, Instr.setOrderAccept), (0x31, Instr.setEvents),
       (0x3F, Instr.restart n bits)] →
    s.orders.engine = .executing o → o.code = code → storedReply o s = none →
    (o.control.extractLsb' 8 7 ≠ 0 →
      exec c s = .next (answer o { status := .badArgument, detail := 0xFFFF, bodies := [[]] } s)) ∧
    (o.control.extractLsb' 8 7 = 0 → permittedCount code o.bodyCount = false →
      exec c s =
        .next (answer o { status := .badLength, detail := numWord o.bodyCount, bodies := [[]] } s))) ∧
  (∀ (o : QueuedOrder) (s : State),
    (o.tag = 0 ∨ o.code ∈ [0x00, 0x21, 0x22, 0x23] ∨ pick s.orders.memory o.trunk = none →
      storedReply o s = none) ∧
    ∀ m : MemoryRow, pick s.orders.memory o.trunk = some m → (m.tag ≠ o.tag ∨ m.code ≠ o.code) →
      storedReply o s = none) ∧
  (∀ code : Nat, knownCode code = true ↔
    code ∈ [0x00, 0x01, 0x02, 0x03, 0x10, 0x11, 0x12, 0x13, 0x14, 0x15, 0x20, 0x21, 0x22, 0x23, 0x24, 0x30, 0x31,
      0x3F]) ∧
  (∀ c : Nat, permittedCount 0x00 c = true ↔ c ≤ 55) ∧
  (∀ c : Nat, permittedCount 0x11 c = true ↔ ∃ k : Nat, k ≤ 60 ∧ c = 1 + 3 * k) ∧
  (∀ c : Nat, permittedCount 0x12 c = true ↔ ∃ k : Nat, k ≤ 20 ∧ c = 1 + 6 * k) ∧
  ∀ code count : Nat,
    (code, count) ∈
      [(0x01, 12), (0x02, 4), (0x03, 2), (0x10, 7), (0x13, 1), (0x14, 1), (0x15, 1), (0x20, 6), (0x21, 1),
       (0x22, 5), (0x23, 2), (0x24, 2), (0x30, 1), (0x31, 4), (0x3F, 0)] →
    ∀ c : Nat, permittedCount code c = true ↔ c = count

/-! ### Orders -/

/-- ECHO answers with the part code, the revision and the order's body (R159); an order whose code names no
order is answered UNKNOWN_ORDER with an empty body (R150; its detail is a free value, log 10). -/
def Obligations.EchoAndUnknownOrderAnswered : Prop :=
  ∀ (o : QueuedOrder) (s : State),
    (s.Carries 0x00 o →
      exec .echo s =
        .next (answer o { status := .ok, detail := 0x0046, bodies := [0x0001 :: o.body] } s.draw)) ∧
    (s.orders.engine = .executing o → knownCode o.code = false →
      exec .unknownOrder s =
        .next (answer o
          { status := .unknownOrder, detail := Config.unknownOrderDetail s.draws, bodies := [[]] } s.draw))

/-- SET_TRUNK: refused for the first word out of range, for rows 1 to 3 in use on an untagged trunk, and for
the first bank that does not fit, row 0 to row 3, the active bank before an ARMED standby (R160); accepted, the
switch control handles each format bound to the trunk, in slot order, and then the trunk is reinitialized
with the profile that words 1 to 11 carry (R161). A command makes the next k of these steps, and the engine
holds those left, so that frames may fall between them (R97, R151); how many it makes (log 25) and how many
bits have arrived (log 3) is the model's. -/
def Obligations.SetTrunkCarriedOut : Prop :=
  ∀ (n k : Nat) (o : QueuedOrder) (s : State) (t : Trunk) (p : Profile),
    p = { enable := decide (o.arg 1 = 1), width := o.arg 2, words := o.arg 3, syncWords := o.arg 4,
          pattern := BitVec.ofNat 48 (o.arg 5 * 2 ^ 32 + o.arg 6 * 2 ^ 16 + o.arg 7), tolerance := o.arg 8,
          verify := o.arg 9, flywheel := o.arg 10, tagPos := o.arg 11 } →
    (∀ checks : List (Nat × Bool),
      checks =
        [ (0, decide (o.arg 0 ≤ 3)), (1, decide (o.arg 1 ≤ 1)), (2, decide (8 ≤ o.arg 2 ∧ o.arg 2 ≤ 16)),
          (3, decide (4 ≤ o.arg 3 ∧ o.arg 3 ≤ 1024)),
          (4, decide (1 ≤ o.arg 4 ∧ o.arg 4 ≤ 4 ∧ o.arg 4 < o.arg 3 ∧ 16 ≤ o.arg 4 * o.arg 2 ∧
            o.arg 4 * o.arg 2 ≤ 48)),
          (5, decide (o.arg 5 * 2 ^ 32 + o.arg 6 * 2 ^ 16 + o.arg 7 < 2 ^ (o.arg 4 * o.arg 2))),
          (8, decide (o.arg 8 ≤ 7)), (9, decide (1 ≤ o.arg 9 ∧ o.arg 9 ≤ 8)),
          (10, decide (1 ≤ o.arg 10 ∧ o.arg 10 ≤ 16)),
          (11, decide (o.arg 11 = 0 ∨ (o.arg 4 < o.arg 11 ∧ o.arg 11 ≤ o.arg 3))) ] →
      rangeFailure (setTrunkRanges o) = (checks.find? (fun x => !x.2)).map (fun x => x.1)) ∧
    (∀ i : Nat, s.Carries 0x01 o → rangeFailure (setTrunkRanges o) = some i →
      exec (.setTrunk n k) s =
        .next (answer o { status := .badArgument, detail := numWord i, bodies := [[]] } s.draw)) ∧
    (∀ r : RowIx, untaggedFailure t p s = some r ↔
      p.tagPos = 0 ∧ r ≠ 0 ∧ (s.row t r).isSome = true ∧
        ∀ q : RowIx, q ≠ 0 → q < r → (s.row t q).isSome = false) ∧
    (trunkPositionFailure t p s = none ↔
      ∀ (r : RowIx) (x : Row), s.row t r = some x →
        positionFailure p (s.activeBank x.format) = none ∧
        ((s.format x.format).standby = .armed → positionFailure p (s.format x.format).standbyBank = none)) ∧
    (∀ (d : Word) (f : Slot) (bank : BankId), trunkPositionFailure t p s = some (d, f, bank) ↔
      ∃ (r : RowIx) (x : Row), s.row t r = some x ∧ x.format = f ∧
        (∀ (q : RowIx) (y : Row), q < r → s.row t q = some y →
          positionFailure p (s.activeBank y.format) = none ∧
          ((s.format y.format).standby = .armed →
            positionFailure p (s.format y.format).standbyBank = none)) ∧
        ((bank = (s.format f).active ∧ positionFailure p (s.activeBank f) = some d) ∨
          (bank ≠ (s.format f).active ∧ positionFailure p (s.activeBank f) = none ∧
            (s.format f).standby = .armed ∧ positionFailure p (s.format f).standbyBank = some d))) ∧
    (s.Carries 0x01 o → rangeFailure (setTrunkRanges o) = none → o.arg 0 = t.val →
      (∀ r : RowIx, untaggedFailure t p s = some r →
        exec (.setTrunk n k) s =
          .next (answer o { status := .inUse, detail := numWord r.val, bodies := [[]] } s.draw)) ∧
      (∀ (d : Word) (f : Slot) (bank : BankId), untaggedFailure t p s = none →
        trunkPositionFailure t p s = some (d, f, bank) →
        exec (.setTrunk n k) s =
          .next (answer o
            { status := .positionConflict, detail := d, bodies := [[numWord f.val, numWord bank.letter]] }
            s.draw))) ∧
    ∀ left : List Slot, o.arg 0 = t.val → rangeFailure (setTrunkRanges o) = none → untaggedFailure t p s = none →
      ((s.Carries 0x01 o ∧ trunkPositionFailure t p s = none ∧ left.Pairwise (fun f g => f < g) ∧
          ∀ f : Slot, f ∈ left ↔ ∃ (r : RowIx) (x : Row), s.row t r = some x ∧ x.format = f) ∨
        (s.orders.engine = .settling o left ∧ o.code = 0x01)) →
      (k ≤ left.length →
        exec (.setTrunk n k) s =
          .next (((left.take k).foldl (settleFormat .order) s).setEngine (.settling o (left.drop k)))) ∧
      (left.length < k →
        exec (.setTrunk n k) s =
          .next (answer o
            { status := .ok, detail := numWord t.val, bodies := [[if p.enable then 1 else 0]] }
            (reinitTrunk t p n (left.foldl (settleFormat .order) s)).draw))

/-- BIND_SOURCE and UNBIND_SOURCE answer BAD_ARGUMENT for a trunk, row or format word out of range, and
BIND_SOURCE for rows 1 to 3 of an untagged trunk and a tag wider than its words. BIND_SOURCE on a vacant
row, with a tag and a format in no other use and positions that fit, occupies the row at CYCLE_SEARCH or
UNFORMATTED with every count 0 (R162, R22); an occupied row, a tag in use and a bound format refuse it.
UNBIND_SOURCE settles the switch control, breaks the contexts uncounted and makes the row vacant; a vacant
row refuses it (R163, R23). The switch control settled for UNBIND_SOURCE, SET_TRUNK or RESTART: an ARMED standby
switches with the order's cause, or else a probation in progress passes and PROBATION_PASSED is posted with the
bound row's cycle count and the active bank's letter (R71, R76). An UNBIND_SOURCE command makes the next k of
its two steps, the switch control's and the unbinding, and the engine holds those left, so that a frame may
fall between them (R97); how many it makes is the model's (log 25). -/
def Obligations.SourcesBoundAndUnbound : Prop :=
  (∀ (cause : SwitchCause) (f : Slot) (s u : State),
    u = s.setFormat f { s.format f with probation := none } →
    ((s.format f).standby = .armed → settleFormat cause s f = switchFormat f cause s) ∧
    ((s.format f).standby ≠ .armed → (s.format f).probation.isSome = true →
      settleFormat cause s f =
        postEvent .probationPassed (numWord f.val) (s.boundCycleCount f)
          [if (s.format f).active = .a then 0x000A else 0x000B] u) ∧
    ((s.format f).standby ≠ .armed → (s.format f).probation = none → settleFormat cause s f = s)) ∧
  (∀ (o : QueuedOrder) (s : State) (code k : Nat) (c : Instr),
    (code, c) ∈ [(0x02, Instr.bindSource), (0x03, Instr.unbindSource k)] → s.Carries code o →
    (4 ≤ o.arg 0 →
      exec c s = .next (answer o { status := .badArgument, detail := 0, bodies := [[]] } s.draw)) ∧
    (o.arg 0 < 4 → 4 ≤ o.arg 1 →
      exec c s = .next (answer o { status := .badArgument, detail := 1, bodies := [[]] } s.draw)) ∧
    (code = 0x02 → o.arg 0 < 4 → o.arg 1 < 4 → 8 ≤ o.arg 2 →
      exec c s = .next (answer o { status := .badArgument, detail := 2, bodies := [[]] } s.draw))) ∧
  ∀ (o : QueuedOrder) (s : State) (t : Trunk) (r : RowIx) (f : Slot) (p : Profile),
    p = (s.receiver t).profile → o.arg 0 = t.val → o.arg 1 = r.val →
    (s.Carries 0x02 o → o.arg 2 = f.val →
      (p.tagPos = 0 → r ≠ 0 →
        exec .bindSource s =
          .next (answer o { status := .badArgument, detail := 1, bodies := [[]] } s.draw)) ∧
      (p.tagPos ≠ 0 → 2 ^ p.width ≤ o.arg 3 →
        exec .bindSource s =
          .next (answer o { status := .badArgument, detail := 3, bodies := [[]] } s.draw))) ∧
    (s.Carries 0x02 o → o.arg 2 = f.val → (p.tagPos = 0 → r = 0) → (p.tagPos ≠ 0 → o.arg 3 < 2 ^ p.width) →
      (∀ x : Row, s.row t r = some x →
        exec .bindSource s =
          .next (answer o
            { status := .sourceOccupied, detail := numWord x.format.val, bodies := [[]] } s.draw)) ∧
      (∀ (q : RowIx) (y : Row), s.row t r = none → p.tagPos ≠ 0 → s.row t q = some y → y.tag = some (o.arg 3) →
        (∀ (q' : RowIx) (z : Row), q' < q → s.row t q' = some z → z.tag ≠ some (o.arg 3)) →
        exec .bindSource s =
          .next (answer o { status := .tagInUse, detail := numWord q.val, bodies := [[]] } s.draw)) ∧
      (s.row t r = none →
        (p.tagPos ≠ 0 → ∀ (q : RowIx) (y : Row), s.row t q = some y → y.tag ≠ some (o.arg 3)) →
        (∀ (t' : Trunk) (r' : RowIx), s.boundRow f = some (t', r') →
          exec .bindSource s =
            .next (answer o
              { status := .formatInUse, detail := numWord (t'.val * 4 + r'.val), bodies := [[]] } s.draw)) ∧
        (∀ d : Word, s.boundRow f = none → positionFailure p (s.activeBank f) = some d →
          exec .bindSource s =
            .next (answer o { status := .positionConflict, detail := d, bodies := [[]] } s.draw)) ∧
        (s.boundRow f = none → positionFailure p (s.activeBank f) = none →
          exec .bindSource s =
            .next (answer o
              { status := .ok, detail := numWord f.val,
                bodies := [[if (s.activeBank f).header.isSome then 1 else 0]] }
              (s.setRow t r (some
                { tag := if p.tagPos = 0 then none else some (o.arg 3), format := f,
                  cycle := if (s.activeBank f).header.isSome then .search else .unformatted,
                  expected := 0, check := 0, miss := 0, current := 0, cycleCount := 0, losses := 0,
                  mismatches := 0, broken := 0 })).draw)))) ∧
    (s.Carries 0x03 o → ∀ k : Nat,
      (s.row t r = none →
        exec (.unbindSource k) s =
          .next (answer o { status := .sourceVacant, detail := 0, bodies := [[]] } s.draw)) ∧
      ∀ x : Row, s.row t r = some x →
        (k = 0 → exec (.unbindSource k) s = .next (s.setEngine (.settling o [x.format]))) ∧
        (k = 1 →
          exec (.unbindSource k) s =
            .next ((settleFormat .unbind s x.format).setEngine (.settling o []))) ∧
        (2 ≤ k →
          exec (.unbindSource k) s =
            .next (answer o { status := .ok, detail := numWord x.format.val, bodies := [[]] }
              ((breakContexts x.format (settleFormat .unbind s x.format)).setRow t r none).draw))) ∧
    ∀ (k : Nat) (left : List Slot), s.orders.engine = .settling o left → o.code = 0x03 →
      (k ≤ left.length →
        exec (.unbindSource k) s =
          .next (((left.take k).foldl (settleFormat .unbind) s).setEngine (.settling o (left.drop k)))) ∧
      ∀ (u : State) (x : Row), left.length < k → u = left.foldl (settleFormat .unbind) s →
        u.row t r = some x →
        exec (.unbindSource k) s =
          .next (answer o { status := .ok, detail := numWord x.format.val, bodies := [[]] }
            ((breakContexts x.format u).setRow t r none).draw)

/-- Staging orders that pass the format and PENDING tests: the standby is opened: an EMPTY one is STAGING
without content, a FALLBACK is emptied, its entries free again, and a STAGING one stays (R52). A header in range
replaces the standby's, and the first field out of range answers its number (R42, R53); entries or definitions
that pass their checks are placed whole when the pool has room for all of them, and not at all when it has not
(R54, R55, R56); the body tells what the standby holds and the free counts (R57). The entries or definitions
of an order are read from three or six words, each field in its range and reserved bits 0 (R43, R46,
R178), and checked one by one, each against the list with those before it: the first that is out of range
answers BAD_ARGUMENT, that overlaps an entry SLOT_CONFLICT, that repeats a number PARAM_DUPLICATE, with its
number in the order as detail and the standby left as it was opened (R54, R55, R57). -/
def Obligations.StandbyStaged : Prop :=
  (∀ (s a : State) (f : Slot) (x : FormatSlot) (b : Bank),
    x = s.format f → b = x.standbyBank → a = openStaging f s →
    standbyLetter f s = (if x.active = .a then 0x000B else 0x000A) ∧
    stagingBody f s =
      [numWord b.slots.length, numWord b.params.length, numWord s.freeSlots, numWord s.freeParams] ∧
    (x.standby = .empty →
      a = s.setFormat f { x with standby := .staging } ∧
      (x.Lawful → (a.format f).standbyBank = { header := none, slots := [], params := [] })) ∧
    (x.standby = .staging → a = s) ∧
    (x.standby = .fallback →
      (a.format f).standby = .staging ∧
      (a.format f).standbyBank = { header := none, slots := [], params := [] } ∧
      (a.format f).activeBank = x.activeBank ∧ (a.format f).active = x.active ∧
      (a.format f).probation = x.probation ∧ (∀ g : Slot, g ≠ f → a.format g = s.format g) ∧
      a.freeSlots = s.freeSlots + b.slots.length ∧ a.freeParams = s.freeParams + b.params.length ∧
      a = { s with formats := a.formats, freeSlots := a.freeSlots, freeParams := a.freeParams })) ∧
  (∀ (o : QueuedOrder) (checks : List (Nat × Bool)),
    checks =
      [ (0, decide (1 ≤ o.arg 1 ∧ o.arg 1 ≤ 256)),
        (1, decide ((o.arg 1 ≠ 1 → 1 ≤ o.arg 2) ∧ o.arg 2 ≤ 1024)), (2, decide (o.arg 3 ≤ 1)),
        (3, decide (1 ≤ o.arg 4 ∧ o.arg 4 ≤ 8)), (4, decide (1 ≤ o.arg 5 ∧ o.arg 5 ≤ 8)),
        (5, decide (o.arg 6 ≤ 15)) ] →
    headerOf o =
      { length := o.arg 1, idPos := o.arg 2, idBase := o.arg 3, verify := o.arg 4, missLimit := o.arg 5,
        probation := o.arg 6 } ∧
    headerFailure (headerOf o) = (checks.find? (fun x => !x.2)).map (fun x => x.1)) ∧
  (∀ w0 w1 w2 : Word,
    (∀ e : SlotEntry, slotEntryOf w0 w1 w2 = some e ↔
      w0.extractLsb' 11 5 = 0 ∧ w2.extractLsb' 12 2 = 0 ∧ 1 ≤ e.pos ∧ e.pos ≤ 1024 ∧ e.offset < e.interval ∧
      e = { pos := (w0.extractLsb' 0 11).toNat, interval := (w1.extractLsb' 8 8).toNat + 1,
            offset := (w1.extractLsb' 0 8).toNat, param := (w2.extractLsb' 0 12).toNat,
            piece := (w2.extractLsb' 14 2).toNat }) ∧
    slotItems [] = [] ∧
    ∀ rest : List Word, slotItems (w0 :: w1 :: w2 :: rest) = slotEntryOf w0 w1 w2 :: slotItems rest) ∧
  (∀ (w0 w1 w2 w3 w4 w5 : Word) (mode pieces persistence : Nat) (lo hi : BitVec 24) (l h : Int),
    mode = (w1.extractLsb' 8 2).toNat → pieces = (w0.extractLsb' 12 4).toNat →
    persistence = (w1.extractLsb' 0 8).toNat →
    lo = w3 ++ w4.extractLsb' 8 8 → hi = w4.extractLsb' 0 8 ++ w5 →
    l = (if w1.getLsbD 15 then lo.toInt else lo.toNat) → h = (if w1.getLsbD 15 then hi.toInt else hi.toNat) →
    (∀ d : ParamDef, paramDefOf w0 w1 w2 w3 w4 w5 = some d ↔
      w1.extractLsb' 10 3 = 0 ∧ mode ≤ 2 ∧ (mode = 1 → 2 ≤ w2.toNat ∧ w2.toNat ≤ 255) ∧ 1 ≤ pieces ∧ pieces ≤ 4 ∧
      (w1.getLsbD 13 = true → l ≤ h ∧ 1 ≤ persistence) ∧
      d = { number := (w0.extractLsb' 0 12).toNat, pieces := pieces, signed := w1.getLsbD 15,
            link := if w1.getLsbD 14 then 1 else 0,
            emission := if mode = 0 then .every else if mode = 1 then .nth w2.toNat else .change w2.toNat,
            limits :=
              if w1.getLsbD 13 then some { lo := l, hi := h, persistence := persistence } else none }) ∧
    paramItems [] = [] ∧
    ∀ rest : List Word, paramItems (w0 :: w1 :: w2 :: w3 :: w4 :: w5 :: rest) =
      paramDefOf w0 w1 w2 w3 w4 w5 :: paramItems rest) ∧
  ∀ (o : QueuedOrder) (s a : State) (f : Slot) (b : Bank),
    o.arg 0 = f.val → (s.format f).isPending = false → a = openStaging f s →
    b = (a.format f).standbyBank →
    (∀ u : State, s.Carries 0x10 o → headerFailure (headerOf o) = none →
      u = a.setStandbyBank f { b with header := some (headerOf o) } →
      exec .stageHeader s =
        .next (answer o
          { status := .ok, detail := standbyLetter f s, bodies := [stagingBody f u] } u.draw)) ∧
    (∀ i : Nat, s.Carries 0x10 o → headerFailure (headerOf o) = some i →
      exec .stageHeader s =
        .next (answer o
          { status := .badArgument, detail := numWord i, bodies := [stagingBody f a] } a.draw)) ∧
    (∀ (items : List (Option SlotEntry)) (slots : List SlotEntry) (u : State), s.Carries 0x11 o →
      items = slotItems o.body.tail → addSlots 0 b.slots items = .ok slots →
      u = (a.setStandbyBank f { b with slots := slots }).setFree (a.freeSlots - items.length) a.freeParams →
      (items.length ≤ a.freeSlots →
        exec .stageSlots s =
          .next (answer o
            { status := .ok, detail := standbyLetter f s, bodies := [stagingBody f u] } u.draw)) ∧
      (a.freeSlots < items.length →
        exec .stageSlots s =
          .next (answer o
            { status := .noSpace, detail := numWord a.freeSlots, bodies := [stagingBody f a] } a.draw))) ∧
    (∀ (items : List (Option SlotEntry)) (status : Status) (i : Nat), s.Carries 0x11 o →
      items = slotItems o.body.tail → addSlots 0 b.slots items = .error (status, i) →
      exec .stageSlots s =
        .next (answer o { status := status, detail := numWord i, bodies := [stagingBody f a] } a.draw)) ∧
    (∀ (items : List (Option ParamDef)) (status : Status) (i : Nat), s.Carries 0x12 o →
      items = paramItems o.body.tail → addParams 0 b.params items = .error (status, i) →
      exec .stageParams s =
        .next (answer o { status := status, detail := numWord i, bodies := [stagingBody f a] } a.draw)) ∧
    (∀ (held : List SlotEntry) (items : List (Option SlotEntry)),
      (∀ (status : Status) (i : Nat), addSlots 0 held items = .error (status, i) ↔
        ∃ placed : List SlotEntry, addSlots 0 held (items.take i) = .ok placed ∧
          ((items[i]? = some none ∧ status = .badArgument) ∨
            ∃ e : SlotEntry, items[i]? = some (some e) ∧ (∃ x ∈ placed, overlaps e x = true) ∧
              status = .slotConflict)) ∧
      ∀ placed : List SlotEntry, addSlots 0 held items = .ok placed →
        placed.Perm (held ++ items.filterMap id) ∧ none ∉ items) ∧
    (∀ (held : List ParamDef) (items : List (Option ParamDef)),
      (∀ (status : Status) (i : Nat), addParams 0 held items = .error (status, i) ↔
        ∃ placed : List ParamDef, addParams 0 held (items.take i) = .ok placed ∧
          ((items[i]? = some none ∧ status = .badArgument) ∨
            ∃ d : ParamDef, items[i]? = some (some d) ∧ (∃ x ∈ placed, x.number = d.number) ∧
              status = .paramDuplicate)) ∧
      ∀ placed : List ParamDef, addParams 0 held items = .ok placed →
        placed.Perm (held ++ items.filterMap id) ∧ none ∉ items) ∧
    (∀ (items : List (Option ParamDef)) (params : List ParamDef) (u : State), s.Carries 0x12 o →
      items = paramItems o.body.tail → addParams 0 b.params items = .ok params →
      u = (a.setStandbyBank f { b with params := params }).setFree a.freeSlots (a.freeParams - items.length) →
      (items.length ≤ a.freeParams →
        exec .stageParams s =
          .next (answer o
            { status := .ok, detail := standbyLetter f s, bodies := [stagingBody f u] } u.draw)) ∧
      (a.freeParams < items.length →
        exec .stageParams s =
          .next (answer o
            { status := .noSpace, detail := numWord a.freeParams, bodies := [stagingBody f a] } a.draw)))

/-- Staging orders and DISCARD_STAGE answer BAD_ARGUMENT with 0FFFFH for a format word out of range and
PENDING for an ARMED standby or a fallback on probation, changing nothing (R51, R58). DISCARD_STAGE of a
STAGING standby, or of a fallback without probation, empties it: no header, no entries, which are free
again; an EMPTY standby stays (R58, R48). -/
def Obligations.StagingRefusedOrDiscarded : Prop :=
  (∀ (code : Nat) (c : Instr) (o : QueuedOrder) (s : State),
    (code, c) ∈
      [(0x10, Instr.stageHeader), (0x11, Instr.stageSlots), (0x12, Instr.stageParams),
       (0x13, Instr.discardStage)] →
    s.Carries code o →
    (8 ≤ o.arg 0 →
      exec c s =
        .next (answer o
          { status := .badArgument, detail := 0xFFFF,
            bodies := [[0, 0, numWord s.freeSlots, numWord s.freeParams]] } s.draw)) ∧
    ∀ f : Slot, o.arg 0 = f.val →
      ((s.format f).standby = .armed ∨
        ((s.format f).standby = .fallback ∧ (s.format f).probation.isSome = true)) →
      exec c s =
        .next (answer o
          { status := .pending, detail := standbyLetter f s, bodies := [stagingBody f s] } s.draw)) ∧
  ∀ (o : QueuedOrder) (s : State) (f : Slot) (b : Bank), s.Carries 0x13 o → o.arg 0 = f.val →
    b = (s.format f).standbyBank →
    ((s.format f).standby = .staging ∨
        ((s.format f).standby = .fallback ∧ (s.format f).probation = none) →
      ∃ u : State,
        exec .discardStage s =
          .next (answer o
            { status := .ok, detail := standbyLetter f s,
              bodies :=
                [[0, 0, numWord (s.freeSlots + b.slots.length), numWord (s.freeParams + b.params.length)]] }
            u.draw) ∧
        u.freeSlots = s.freeSlots + b.slots.length ∧ u.freeParams = s.freeParams + b.params.length ∧
        (u.format f).standby = .empty ∧
        (u.format f).standbyBank = { header := none, slots := [], params := [] } ∧
        (u.format f).activeBank = (s.format f).activeBank ∧ (u.format f).active = (s.format f).active ∧
        (u.format f).probation = (s.format f).probation ∧ (∀ g : Slot, g ≠ f → u.format g = s.format g) ∧
        u = { s with formats := u.formats, freeSlots := u.freeSlots, freeParams := u.freeParams }) ∧
    ((s.format f).standby = .empty →
      exec .discardStage s =
        .next (answer o
          { status := .ok, detail := standbyLetter f s, bodies := [stagingBody f s] } s.draw))

/-- COMMIT and CANCEL_COMMIT answer BAD_ARGUMENT with 0FFFFH for a format word out of range. COMMIT: PENDING
when ARMED, NOT_STAGED when EMPTY or FALLBACK, the first failing check's status; with all checks passed the
standby is ARMED when the format's row is CYCLE_LOCKED, and otherwise switched at once (R63 to R67).
CANCEL_COMMIT takes ARMED back to STAGING and is NOT_STAGED otherwise (R68). -/
def Obligations.CommitCarriedOut : Prop :=
  (∀ (o : QueuedOrder) (s : State), 8 ≤ o.arg 0 →
    (s.Carries 0x14 o →
      exec .commit s =
        .next (answer o { status := .badArgument, detail := 0xFFFF, bodies := [[0, 0]] } s.draw)) ∧
    (s.Carries 0x15 o →
      exec .cancelCommit s =
        .next (answer o { status := .badArgument, detail := 0xFFFF, bodies := [[]] } s.draw))) ∧
  ∀ (o : QueuedOrder) (s : State) (f : Slot) (letter : Word), o.arg 0 = f.val →
    letter = numWord (s.format f).active.other.letter →
    (s.Carries 0x14 o →
      ((s.format f).standby = .armed →
        exec .commit s = .next (answer o { status := .pending, detail := letter, bodies := [[0, 0]] } s.draw)) ∧
      ((s.format f).standby = .empty ∨ (s.format f).standby = .fallback →
        exec .commit s =
          .next (answer o { status := .notStaged, detail := letter, bodies := [[0, 0]] } s.draw)) ∧
      (∀ x : CommitFailure, (s.format f).standby = .staging →
        commitFailure f (s.format f).standbyBank s = some x →
        exec .commit s =
          .next (answer o
            { status := x.status, detail := x.detail, bodies := [[numWord x.check, numWord x.other]] }
            s.draw)) ∧
      ((s.format f).standby = .staging → commitFailure f (s.format f).standbyBank s = none →
        (boundLocked f s = true →
          exec .commit s =
            .next (answer o { status := .armed, detail := letter, bodies := [[0, 0]] }
              (s.setFormat f { s.format f with standby := .armed }).draw)) ∧
        (boundLocked f s = false →
          exec .commit s =
            .next (answer o { status := .switched, detail := letter, bodies := [[0, 0]] }
              (switchFormat f .immediate s).draw)))) ∧
    (s.Carries 0x15 o →
      ((s.format f).standby = .armed →
        exec .cancelCommit s =
          .next (answer o { status := .ok, detail := letter, bodies := [[]] }
            (s.setFormat f { s.format f with standby := .staging }).draw)) ∧
      ((s.format f).standby ≠ .armed →
        exec .cancelCommit s =
          .next (answer o { status := .notStaged, detail := letter, bodies := [[]] } s.draw)))

/-- The content checks of COMMIT, in the order they are made, each list from index 0: a header (detail
0FFFFH), intervals that divide M, defined parameters, complete pieces (R64), positions that fit the bound
row's trunk (R65), and no number in use in another format (R66). The first that fails gives the status, the
detail and the check's number; a bank that passes all of them has what they ask for. Positions fail with
0FFFFH for the ID position, and else with the index of the first entry that does not fit (R65). -/
def Obligations.CommitChecksInOrder : Prop :=
  (∀ (p : Profile) (b : Bank),
    (b.header = none → positionFailure p b = none) ∧
    ∀ (h : Header) (fits : SlotEntry → Prop), b.header = some h →
      (∀ e : SlotEntry, fits e ↔
        p.syncWords < e.pos ∧ e.pos ≤ p.words ∧ (p.tagPos ≠ 0 → e.pos ≠ p.tagPos) ∧
          (1 < h.length → e.pos ≠ h.idPos)) →
      (1 < h.length → ¬(p.syncWords < h.idPos ∧ h.idPos ≤ p.words ∧ h.idPos ≠ p.tagPos) →
        positionFailure p b = some 0xFFFF) ∧
      ((1 < h.length → p.syncWords < h.idPos ∧ h.idPos ≤ p.words ∧ h.idPos ≠ p.tagPos) →
        (∀ (i : Nat) (e : SlotEntry), b.slots[i]? = some e → ¬fits e →
          (∀ (j : Nat) (x : SlotEntry), j < i → b.slots[j]? = some x → fits x) →
          positionFailure p b = some (numWord i)) ∧
        ((∀ e ∈ b.slots, fits e) → positionFailure p b = none))) ∧
  ∀ (f : Slot) (b : Bank) (s : State),
    (b.header = none →
      commitFailure f b s = some { status := .incomplete, detail := 0xFFFF, check := 1, other := 0 }) ∧
    ∀ h : Header, b.header = some h →
      (∀ (i : Nat) (e : SlotEntry), b.slots[i]? = some e → ¬e.interval ∣ h.length →
        (∀ (j : Nat) (x : SlotEntry), j < i → b.slots[j]? = some x → x.interval ∣ h.length) →
        commitFailure f b s = some { status := .incomplete, detail := numWord i, check := 2, other := 0 }) ∧
      ((∀ e ∈ b.slots, e.interval ∣ h.length) →
        ∀ (i : Nat) (e : SlotEntry), b.slots[i]? = some e → (∀ d ∈ b.params, d.number ≠ e.param) →
        (∀ (j : Nat) (x : SlotEntry), j < i → b.slots[j]? = some x → ∃ d ∈ b.params, d.number = x.param) →
        commitFailure f b s = some { status := .incomplete, detail := numWord i, check := 3, other := 0 }) ∧
      ((∀ e ∈ b.slots, e.interval ∣ h.length ∧ ∃ d ∈ b.params, d.number = e.param) →
        (∀ (i : Nat) (d : ParamDef), b.params[i]? = some d → piecesComplete h.length b.slots d = false →
          (∀ (j : Nat) (x : ParamDef), j < i → b.params[j]? = some x →
            piecesComplete h.length b.slots x = true) →
          commitFailure f b s = some { status := .incomplete, detail := numWord i, check := 4, other := 0 }) ∧
        ((∀ d ∈ b.params, piecesComplete h.length b.slots d = true) →
          (∀ (t : Trunk) (r : RowIx) (d : Word), s.boundRow f = some (t, r) →
            positionFailure (s.receiver t).profile b = some d →
            commitFailure f b s = some { status := .positionConflict, detail := d, check := 5, other := 0 }) ∧
          ((∀ (t : Trunk) (r : RowIx), s.boundRow f = some (t, r) →
              positionFailure (s.receiver t).profile b = none) →
            ∀ (i : Nat) (d : ParamDef) (g : Slot), b.params[i]? = some d → g ≠ f →
            (s.format g).claims d.number = true →
            (∀ g' : Slot, g' ≠ f → (s.format g').claims d.number = true → g' = g) →
            (∀ (j : Nat) (x : ParamDef) (g' : Slot), j < i → b.params[j]? = some x → g' ≠ f →
              (s.format g').claims x.number = false) →
            commitFailure f b s =
              some { status := .paramClash, detail := numWord i, check := 6, other := g.val }))) ∧
      (commitFailure f b s = none →
        (∀ e ∈ b.slots, e.interval ∣ h.length ∧ ∃ d ∈ b.params, d.number = e.param) ∧
        (∀ d ∈ b.params, d.pieces = 1 → ∀ e ∈ b.slots, e.param = d.number → e.piece = 0) ∧
        (∀ d ∈ b.params, d.pieces ≠ 1 → (∃ e ∈ b.slots, e.param = d.number) →
          (∀ e ∈ b.slots, e.param = d.number → e.piece < d.pieces ∧ e.interval = h.length) ∧
          ∀ i : Nat, i < d.pieces → b.slots.countP (fun e => e.param == d.number && e.piece == i) = 1) ∧
        (∀ (t : Trunk) (r : RowIx) (p : Profile), s.boundRow f = some (t, r) → p = (s.receiver t).profile →
          (1 < h.length → p.syncWords < h.idPos ∧ h.idPos ≤ p.words ∧ h.idPos ≠ p.tagPos) ∧
          ∀ e ∈ b.slots, p.syncWords < e.pos ∧ e.pos ≤ p.words ∧ (p.tagPos ≠ 0 → e.pos ≠ p.tagPos) ∧
            (1 < h.length → e.pos ≠ h.idPos)) ∧
        ∀ d ∈ b.params, ∀ g : Slot, g ≠ f → (s.format g).claims d.number = false)

/-- TUNE_PARAM: NOT_DEFINED for a number no active bank defines; else the first failing field (0 the emission
mode, with bits 12 to 10, 1 its argument, 3 lo above hi, 4 persistence; an argument under EVERY and an absent
limits part are not examined), or the new link, emission and limits part in the definition of that number in
the active bank of its format, its number, pieces and signed setting kept, every other definition and bank
unchanged, and the parameter's runtime adjusted, no other (R80, R165): the limit machine reset when the limits
part changed, the NTH count and last emitted value when the mode did (R111). -/
def Obligations.ParameterTuned : Prop :=
  (∀ (signed : Bool) (w1 w2 w3 w4 w5 : Word) (mode persistence : Nat) (lo hi : BitVec 24) (l h : Int)
      (checks : List (Nat × Bool)),
    mode = (w1.extractLsb' 8 2).toNat → persistence = (w1.extractLsb' 0 8).toNat →
    lo = w3 ++ w4.extractLsb' 8 8 → hi = w4.extractLsb' 0 8 ++ w5 →
    l = (if signed then lo.toInt else lo.toNat) → h = (if signed then hi.toInt else hi.toNat) →
    checks =
      [ (0, decide (w1.extractLsb' 10 3 = 0 ∧ mode ≤ 2)),
        (1, decide (mode = 1 → 2 ≤ w2.toNat ∧ w2.toNat ≤ 255)),
        (3, decide (w1.getLsbD 13 = true → l ≤ h)), (4, decide (w1.getLsbD 13 = true → 1 ≤ persistence)) ] →
    tunedFieldsOf signed w1 w2 w3 w4 w5 =
      match (checks.find? (fun x => !x.2)).map (fun x => x.1) with
      | some i => .error i
      | none =>
        .ok
          { link := if w1.getLsbD 14 then 1 else 0,
            emission := if mode = 0 then .every else if mode = 1 then .nth w2.toNat else .change w2.toNat,
            limits := if w1.getLsbD 13 then some { lo := l, hi := h, persistence := persistence } else none }) ∧
  (∀ (o : QueuedOrder) (s : State) (number : Nat), s.Carries 0x20 o →
    number = ((o.word 0).extractLsb' 0 12).toNat →
    ((∀ f : Slot, (s.activeBank f).definition? number = none) →
      exec .tuneParam s =
        .next (answer o { status := .notDefined, detail := numWord number, bodies := [[]] } s.draw)) ∧
    ∀ (f : Slot) (d : ParamDef), definingSlot number s = some f →
      (s.activeBank f).definition? number = some d →
      (∀ i : Nat,
        tunedFieldsOf d.signed (o.word 1) (o.word 2) (o.word 3) (o.word 4) (o.word 5) = .error i →
        exec .tuneParam s =
          .next (answer o { status := .badArgument, detail := numWord i, bodies := [[]] } s.draw)) ∧
      ∀ x : TunedFields,
        tunedFieldsOf d.signed (o.word 1) (o.word 2) (o.word 3) (o.word 4) (o.word 5) = .ok x →
        exec .tuneParam s =
          .next (answer o
            { status := .ok, detail := numWord f.val, bodies := [[numWord (s.format f).active.letter]] }
            (applyTune f d { d with link := x.link, emission := x.emission, limits := x.limits } s).draw)) ∧
  (∀ (f : Slot) (old new : ParamDef) (s u : State),
    (s.activeBank f).definition? old.number = some old → new.number = old.number → u = applyTune f old new s →
    u = { s with formats := u.formats, runtimes := u.runtimes } ∧
    u.activeBank f =
      { s.activeBank f with
        params := (s.activeBank f).params.map (fun d => if d.number = old.number then new else d) } ∧
    (u.activeBank f).definition? old.number = some new ∧
    (∀ k : Nat, k ≠ old.number → (u.activeBank f).definition? k = (s.activeBank f).definition? k) ∧
    (u.format f).standbyBank = (s.format f).standbyBank ∧ (u.format f).active = (s.format f).active ∧
    (u.format f).standby = (s.format f).standby ∧ (u.format f).probation = (s.format f).probation ∧
    (∀ g : Slot, g ≠ f → u.format g = s.format g ∧ u.runtimesOf g = s.runtimesOf g) ∧
    u.runtime? f old.number = (s.runtime? f old.number).map (adjustTuned old new) ∧
    ∀ k : Nat, k ≠ old.number → u.runtime? f k = s.runtime? f k) ∧
  ∀ (old new : ParamDef) (rt a : Runtime), a = adjustTuned old new rt →
    a.latest = rt.latest ∧ a.samples = rt.samples ∧
    (old.limits = new.limits → a.limit = rt.limit ∧ a.candidate = rt.candidate ∧ a.run = rt.run) ∧
    (old.limits ≠ new.limits → a.limit = .inside ∧ a.candidate = none ∧ a.run = 0) ∧
    (old.emission.number ≠ new.emission.number → a.nth = 0 ∧ a.emitted = none) ∧
    (old.emission.number = new.emission.number → a.emitted = rt.emitted ∧
      (∀ n : Nat, new.emission = .nth n → n ≤ rt.nth → a.nth = 0) ∧
      ((∀ n : Nat, new.emission = .nth n → rt.nth < n) → a.nth = rt.nth))

/-- READ_PARAM reports the definition and the runtime of a defined number in 23 words and is refused otherwise
(R113, R166). READ_BANK reports the header, or the entries or definitions asked for in records of at most 18
or 4, at most 64 records, in the words of R178, which read back as what was staged (R167). READ_STATUS reports
the part in 13 words, a trunk in five records of 30, 17, 17, 17 and 20, a link in 21 and a format in 13 (R130,
R156, R169, R170). A word or scope out of range is BAD_ARGUMENT with its index. None changes anything but by
its reply. Words that the manual does not state are free values (logs 11 to 14); all records are built when
the order is carried out (log 17), and those left are placed by later commands (log 26). -/
def Obligations.ReadingsReported : Prop :=
  (∀ (n : Nat) (o : QueuedOrder) (next : Record) (rest : List Record) (s : State) (code : Nat) (c : Instr),
    (code, c) ∈ [(0x22, Instr.readBank n), (0x23, Instr.readStatus n)] →
    s.orders.engine = .placing o next rest → o.code = code →
    exec c s =
      .next (placeReplies o ((next :: rest).getLast?.getD []) ((next :: rest).drop n) ((next :: rest).take n) s)) ∧
  (∀ (o : QueuedOrder) (s : State), s.Carries 0x21 o →
    (4095 < o.arg 0 →
      exec .readParam s =
        .next (answer o { status := .badArgument, detail := 0, bodies := [[]] } s.draw)) ∧
    (o.arg 0 ≤ 4095 → (∀ g : Slot, (s.activeBank g).definition? (o.arg 0) = none) →
      exec .readParam s =
        .next (answer o { status := .notDefined, detail := o.word 0, bodies := [[]] } s.draw)) ∧
    ∀ (f : Slot) (d : ParamDef) (rt : Runtime) (width : Nat), o.arg 0 ≤ 4095 →
      definingSlot (o.arg 0) s = some f → (s.activeBank f).definition? (o.arg 0) = some d →
      s.runtime? f (o.arg 0) = some rt →
      (∀ v : Latest, rt.latest = some v → width = v.width) →
      (∀ (t : Trunk) (r : RowIx), rt.latest = none → s.boundRow f = some (t, r) →
        width = d.pieces * (s.receiver t).profile.width) →
      (rt.latest = none → s.boundRow f = none → width = 0) →
      exec .readParam s =
        .next (answer o
          { status := .ok, detail := o.word 0,
            bodies :=
              [[numWord f.val, if (s.format f).active = .a then 0x000A else 0x000B, numWord width,
                if d.signed then 1 else 0,
                (match rt.latest with
                  | none => 0x0000
                  | some v => if v.mark then 0x0101 else 0x0100),
                if d.limits.isSome then 1 else 0,
                if d.limits.isSome then
                  (BitVec.ofNat 4 rt.limit.number ++ BitVec.ofNat 4 (candidateNumber rt.candidate) ++
                    BitVec.ofNat 8 rt.run : BitVec 16)
                else 0,
                numWord d.emission.number, numWord rt.nth, if rt.emitted.isSome then 1 else 0,
                rt.samples.extractLsb' 16 16, rt.samples.extractLsb' 0 16] ++
              (match rt.latest with
                | none => [0, 0, 0, 0, 0, 0, 0]
                | some v =>
                  [v.cycleCount.extractLsb' 16 16, v.cycleCount.extractLsb' 0 16, numWord v.frame] ++
                    valueWords 4 v.value) ++
              (match rt.emitted with
                | none => [0, 0, 0, 0]
                | some v => valueWords 4 v)] } s.draw)) ∧
  (∀ (n : Nat) (o : QueuedOrder) (s : State), s.Carries 0x22 o →
    (∀ checks : List (Nat × Bool),
      checks =
        [ (0, decide (o.arg 0 ≤ 7)), (1, decide (o.arg 1 ≤ 1)), (2, decide (o.arg 2 ≤ 2)),
          (3, decide (o.arg 2 = 0 ∨ o.arg 3 ≤ 4095)),
          (4, decide (o.arg 2 = 0 ∨ (1 ≤ o.arg 4 ∧ o.arg 4 ≤ if o.arg 2 = 1 then 1152 else 256))) ] →
      rangeFailure (readBankRanges o) = (checks.find? (fun x => !x.2)).map (fun x => x.1)) ∧
    (∀ i : Nat, rangeFailure (readBankRanges o) = some i →
      exec (.readBank n) s =
        .next (answerUpTo n o { status := .badArgument, detail := numWord i, bodies := [[]] } s.draw)) ∧
    ∀ (f : Slot) (letter : BankId) (b : Bank) (bodies : List (List Word)),
      rangeFailure (readBankRanges o) = none → o.arg 0 = f.val →
      letter = (if o.arg 1 = 0 then (s.format f).active else (s.format f).active.other) →
      b = (s.format f).bank letter → bodies = readBankBodies o s.draws b →
      exec (.readBank n) s =
        .next (answerUpTo n o { status := .ok, detail := numWord letter.letter, bodies := bodies } s.draw) ∧
      bodies.length ≤ 64 ∧ (∀ body ∈ bodies, body.length ≤ 56) ∧
      (o.arg 2 = 0 → b.header = none → bodies = [[0, 0, 0, 0, 0, 0, 0]]) ∧
      (∀ h : Header, o.arg 2 = 0 → b.header = some h →
        bodies =
          [[1, numWord h.length, numWord h.idPos, numWord h.idBase, numWord h.verify, numWord h.missLimit,
            numWord h.probation]]) ∧
      (∀ read : List SlotEntry, o.arg 2 = 1 → read = (b.slots.drop (o.arg 3)).take (o.arg 4) →
        (read = [] → bodies = [[Config.emptyReadIndex s.draws, numWord b.slots.length]]) ∧
        (read ≠ [] →
          bodies.length = (read.length + 17) / 18 ∧
          ∀ k : Nat, k < bodies.length →
            bodies[k]? =
              some (numWord (o.arg 3 + 18 * k) :: numWord b.slots.length ::
                ((read.drop (18 * k)).take 18).flatMap slotEntryWords))) ∧
      ∀ read : List ParamDef, o.arg 2 = 2 → read = (b.params.drop (o.arg 3)).take (o.arg 4) →
        (read = [] → bodies = [[Config.emptyReadIndex s.draws, numWord b.params.length]]) ∧
        (read ≠ [] →
          bodies.length = (read.length + 3) / 4 ∧
          ∀ k : Nat, k < bodies.length →
            bodies[k]? =
              some (numWord (o.arg 3 + 4 * k) :: numWord b.params.length ::
                ((read.drop (4 * k)).take 4).flatMap paramDefWords))) ∧
  (∀ e : SlotEntry, e.InRange →
    ∃ w0 w1 w2 : Word, slotEntryWords e = [w0, w1, w2] ∧ slotEntryOf w0 w1 w2 = some e) ∧
  (∀ d : ParamDef, d.InRange →
    ∃ w0 w1 w2 w3 w4 w5 : Word, paramDefWords d = [w0, w1, w2, w3, w4, w5] ∧
      paramDefOf w0 w1 w2 w3 w4 w5 = some d ∧ (d.emission = .every → w2 = 0) ∧
      (d.limits = none → field w1 0 8 = 0 ∧ w3 = 0 ∧ w4 = 0 ∧ w5 = 0)) ∧
  ∀ (n : Nat) (o : QueuedOrder) (s : State), s.Carries 0x23 o →
    (4 ≤ o.arg 0 →
      exec (.readStatus n) s =
        .next (answerUpTo n o { status := .badArgument, detail := 0, bodies := [[]] } s.draw)) ∧
    ((o.arg 0 = 0 ∧ 1 ≤ o.arg 1) ∨ (o.arg 0 = 1 ∧ 4 ≤ o.arg 1) ∨ (o.arg 0 = 2 ∧ 2 ≤ o.arg 1) ∨
        (o.arg 0 = 3 ∧ 8 ≤ o.arg 1) →
      exec (.readStatus n) s =
        .next (answerUpTo n o { status := .badArgument, detail := 1, bodies := [[]] } s.draw)) ∧
    (∀ body : List Word, o.arg 0 = 0 → o.arg 1 = 0 →
      body =
        [numWord s.freeSlots, numWord s.freeParams, numWord s.events.link.val, s.events.enabled.setWidth 16,
          if s.events.shedArmed then 1 else 0, s.events.refusalArmed.setWidth 16,
          s.events.lost.extractLsb' 16 16, s.events.lost.extractLsb' 0 16, s.orders.accept.setWidth 16,
          numWord s.orders.queue.length, 1, 0x0046, 0x0001] →
      exec (.readStatus n) s =
        .next (answerUpTo n o { status := .ok, detail := 0, bodies := [body] } s.draw)) ∧
    (∀ (t : Trunk) (x : Receiver) (bodies : List (List Word)), o.arg 0 = 1 → o.arg 1 = t.val →
      x = s.receiver t → bodies = trunkBodies t s →
      exec (.readStatus n) s =
        .next (answerUpTo n o { status := .ok, detail := 1, bodies := bodies } s.draw) ∧
      bodies.map List.length = [30, 17, 17, 17, 20] ∧
      bodies[0]? =
        some
          ([if x.profile.enable then 1 else 0, numWord x.profile.width, numWord x.profile.words,
            numWord x.profile.syncWords, x.profile.pattern.extractLsb' 32 16,
            x.profile.pattern.extractLsb' 16 16, x.profile.pattern.extractLsb' 0 16,
            numWord x.profile.tolerance, numWord x.profile.verify, numWord x.profile.flywheel,
            numWord x.profile.tagPos, numWord x.sync.number, numWord x.hits, numWord x.misses] ++
          [x.counters.delivered, x.counters.flywheel, x.counters.syncLosses, x.counters.unmatched,
            x.counters.taken, x.counters.rejected, x.counters.refused, x.counters.shed].flatMap
              (fun c => [c.extractLsb' 16 16, c.extractLsb' 0 16])) ∧
      (∀ (r : RowIx) (row : List Word),
        (s.row t r = none → row = List.replicate 17 0) →
        (∀ y : Row, s.row t r = some y →
          row =
            [1, if y.tag.isSome then 1 else 0,
              (match y.tag with | none => Config.absentTagWord s.draws r | some v => numWord v),
              numWord y.format.val, numWord y.cycle.number, numWord y.expected, numWord y.check,
              numWord y.miss, numWord y.current] ++
            [y.cycleCount, y.losses, y.mismatches, y.broken].flatMap
              (fun c => [c.extractLsb' 16 16, c.extractLsb' 0 16])) →
        (r ≠ 3 → bodies[r.val + 1]? = some row) ∧
        (r = 3 →
          bodies[4]? =
            some (row ++
              (match pick s.orders.memory t with
                | none => [0, Config.emptyMemoryCode s.draws, Config.emptyMemoryStatus s.draws]
                | some m => [numWord m.tag, numWord m.code, numWord (field (m.record.headD 0) 0 8)]))))) ∧
    (∀ (l : Link) (lk : LinkTx) (body : List Word), o.arg 0 = 2 → o.arg 1 = l.val → lk = s.link l →
      body =
        [numWord lk.state.number, numWord lk.credits, numWord lk.control.length, numWord lk.sample.length,
          (match lk.sending with | none => 0 | some .control => 1 | some .sample => 2), numWord lk.burst,
          if lk.overrunArmed then 1 else 0, numWord lk.stallTime, if lk.timer.isSome then 1 else 0] ++
        [lk.counters.sampleSent, lk.counters.controlSent, lk.counters.dropped, lk.counters.sampleFlushed,
          lk.counters.controlFlushed, lk.counters.stalls].flatMap
            (fun c => [c.extractLsb' 16 16, c.extractLsb' 0 16]) →
      body.length = 21 ∧
      exec (.readStatus n) s =
        .next (answerUpTo n o { status := .ok, detail := 2, bodies := [body] } s.draw)) ∧
    ∀ (f : Slot) (x : FormatSlot) (body : List Word), o.arg 0 = 3 → o.arg 1 = f.val → x = s.format f →
      body =
        [if x.active = .a then 0x000A else 0x000B, if x.activeBank.header.isSome then 1 else 0,
          numWord x.standby.number] ++
        (match x.probation with
          | none => [0, Config.absentProbationWord s.draws]
          | some k => [1, numWord k]) ++
        [if x.standbyBank.header.isSome then 1 else 0, numWord x.bankA.slots.length,
          numWord x.bankA.params.length, numWord x.bankB.slots.length, numWord x.bankB.params.length] ++
        (match s.boundRow f with
          | none => [0, 0, 0]
          | some (t, r) => [1, numWord t.val, numWord r.val]) →
      body.length = 13 ∧
      exec (.readStatus n) s =
        .next (answerUpTo n o { status := .ok, detail := 3, bodies := [body] } s.draw)

/-- CLEAR_COUNTERS sets to 0 the counters of its scope and nothing else: events lost; a trunk's eight
counters and the three of its occupied rows; a link's six; the sample counts of a format (R171). A scope or
an index out of range refuses it with BAD_ARGUMENT and the word's index. -/
def Obligations.CountersCleared : Prop :=
  ∀ (o : QueuedOrder) (s u : State), s.Carries 0x24 o →
    (4 ≤ o.arg 0 →
      exec .clearCounters s =
        .next (answer o { status := .badArgument, detail := 0, bodies := [[]] } s.draw)) ∧
    ((o.arg 0 = 0 ∧ 1 ≤ o.arg 1) ∨ (o.arg 0 = 1 ∧ 4 ≤ o.arg 1) ∨ (o.arg 0 = 2 ∧ 2 ≤ o.arg 1) ∨
        (o.arg 0 = 3 ∧ 8 ≤ o.arg 1) →
      exec .clearCounters s =
        .next (answer o { status := .badArgument, detail := 1, bodies := [[]] } s.draw)) ∧
    (o.arg 0 = 0 → o.arg 1 = 0 → u = s.setEvents { s.events with lost := 0 } →
      exec .clearCounters s = .next (answer o { status := .ok, detail := 0, bodies := [[]] } u.draw)) ∧
    (∀ t : Trunk, o.arg 0 = 1 → o.arg 1 = t.val → u = clearScope s (.trunk t) →
      exec .clearCounters s = .next (answer o { status := .ok, detail := 1, bodies := [[]] } u.draw) ∧
      u.receiver t =
        { s.receiver t with
          counters :=
            { delivered := 0, flywheel := 0, syncLosses := 0, unmatched := 0, taken := 0, rejected := 0,
              refused := 0, shed := 0 } } ∧
      (∀ r : RowIx,
        u.row t r = (s.row t r).map (fun x => { x with losses := 0, mismatches := 0, broken := 0 })) ∧
      (u.tracker t).waiting = (s.tracker t).waiting ∧
      (∀ t' : Trunk, t' ≠ t → u.receiver t' = s.receiver t' ∧ u.tracker t' = s.tracker t') ∧
      u = { s with receivers := u.receivers, trackers := u.trackers }) ∧
    (∀ l : Link, o.arg 0 = 2 → o.arg 1 = l.val →
      u = s.setLink l
        { s.link l with
          counters :=
            { sampleSent := 0, controlSent := 0, dropped := 0, sampleFlushed := 0, controlFlushed := 0,
              stalls := 0 } } →
      exec .clearCounters s = .next (answer o { status := .ok, detail := 2, bodies := [[]] } u.draw)) ∧
    (∀ f : Slot, o.arg 0 = 3 → o.arg 1 = f.val →
      u = s.setRuntimes f
        ((s.runtimesOf f).map (fun e => { e with runtime := { e.runtime with samples := 0 } })) →
      exec .clearCounters s = .next (answer o { status := .ok, detail := 3, bodies := [[]] } u.draw))

/-- SET_ORDER_ACCEPT replaces the accept set; bits 4 to 15 are refused, and a set without the arriving trunk
with WOULD_ISOLATE (R172). SET_EVENTS replaces the event link, the enable set and both stall times, a
running stall timer keeping its remaining time; the first word out of range refuses it (R173, R120,
R141). -/
def Obligations.ChannelSettingsReplaced : Prop :=
  (∀ (o : QueuedOrder) (s : State), s.Carries 0x30 o →
    (16 ≤ o.arg 0 →
      exec .setOrderAccept s =
        .next (answer o { status := .badArgument, detail := 0, bodies := [[]] } s.draw)) ∧
    (o.arg 0 < 16 → (o.word 0).getLsbD o.trunk.val = false →
      exec .setOrderAccept s =
        .next (answer o
          { status := .wouldIsolate, detail := numWord o.trunk.val, bodies := [[]] } s.draw)) ∧
    (o.arg 0 < 16 → (o.word 0).getLsbD o.trunk.val = true →
      exec .setOrderAccept s =
        .next (answer o { status := .ok, detail := numWord o.trunk.val, bodies := [[o.word 0]] }
          (s.setOrders { s.orders with accept := (o.word 0).setWidth 4 }).draw))) ∧
  ∀ (o : QueuedOrder) (s : State), s.Carries 0x31 o →
    (∀ l : Link, o.arg 0 = l.val → o.arg 1 < 512 → 1 ≤ o.arg 2 → o.arg 2 ≤ 255 → 1 ≤ o.arg 3 →
      o.arg 3 ≤ 255 →
      exec .setEvents s =
        .next (answer o { status := .ok, detail := 0, bodies := [[]] }
          { s with
            events := { s.events with link := l, enabled := (o.word 1).setWidth 9 },
            links :=
              #v[{ s.link 0 with stallTime := o.arg 2 }, { s.link 1 with stallTime := o.arg 3 }] }.draw)) ∧
    (2 ≤ o.arg 0 →
      exec .setEvents s =
        .next (answer o { status := .badArgument, detail := 0, bodies := [[]] } s.draw)) ∧
    (o.arg 0 < 2 → 512 ≤ o.arg 1 →
      exec .setEvents s =
        .next (answer o { status := .badArgument, detail := 1, bodies := [[]] } s.draw)) ∧
    (o.arg 0 < 2 → o.arg 1 < 512 → (o.arg 2 = 0 ∨ 255 < o.arg 2) →
      exec .setEvents s =
        .next (answer o { status := .badArgument, detail := 2, bodies := [[]] } s.draw)) ∧
    (o.arg 0 < 2 → o.arg 1 < 512 → 1 ≤ o.arg 2 → o.arg 2 ≤ 255 → (o.arg 3 = 0 ∨ 255 < o.arg 3) →
      exec .setEvents s =
        .next (answer o { status := .badArgument, detail := 3, bodies := [[]] } s.draw))

/-- RESTART makes its steps in the order of R174: switch control, T0 to T3, evaluation unit, L0, L1 with
the events-lost counter, rows, reply. The switch control settles every bound format in slot order (R71); every
runtime of every active bank becomes fresh (R115); a link's waiting records are flushed uncounted, a record in
transmission stays, its counters and burst count become 0, its overrun report is armed and its timer idle
(R132); an occupied row keeps tag and format, every count 0, in CYCLE_SEARCH or UNFORMATTED (R38). Carried out
in parts (log 5), the engine holds the steps left; how many bits have arrived comes with the command (log
3). -/
def Obligations.RestartStepsInOrder : Prop :=
  (∀ (o : QueuedOrder) (bits : Vector Nat 4) (s : State),
    (s.Carries 0x3F o →
      (∀ a b c u : State,
        a = [0, 1, 2, 3].foldl (fun x t => reinitTrunk t (x.receiver t).profile (pick bits t) x)
              (restartSwitches s) →
        b = slotList.foldl (fun x f => x.setRuntimes f (freshRuntimes (x.activeBank f))) a →
        c = (b.setLink 0 (b.link 0).restart).setLink 1 (b.link 1).restart →
        u = { c with
              events := { c.events with lost := 0 },
              trackers := c.trackers.map (Tracker.restarted c) } →
        exec (.restart 10 bits) s = .next (answer o { status := .ok, detail := 0, bodies := [[]] } u)) ∧
      ∀ n : Nat, n < 10 →
        exec (.restart n bits) s =
          .next (((restartSteps.take n).foldl (restartStep bits) s).setEngine
            (.restarting o (restartSteps.drop n)))) ∧
    ∀ left : List RestartStep, s.orders.engine = .restarting o left → left ≠ [] →
      (∀ n : Nat, n < left.length →
        exec (.restart n bits) s =
          .next (((left.take n).foldl (restartStep bits) s).setEngine (.restarting o (left.drop n)))) ∧
      ∀ n : Nat, left.length ≤ n →
        exec (.restart n bits) s =
          .next (answer o { status := .ok, detail := 0, bodies := [[]] } (left.foldl (restartStep bits) s))) ∧
  (∀ s : State,
    restartSwitches s =
      slotList.foldl (fun u f => if (s.boundRow f).isSome then settleFormat .order u f else u) s) ∧
  (∀ b : Bank,
    freshRuntimes b =
      b.params.map (fun d =>
        { number := d.number,
          runtime :=
            { latest := none, samples := 0, limit := .inside, candidate := none, run := 0, nth := 0,
              emitted := none } })) ∧
  (∀ lk : LinkTx,
    lk.restart =
      { lk with
        control := if lk.sending = some .control then lk.control.take 1 else [],
        sample := if lk.sending = some .sample then lk.sample.take 1 else [],
        burst := 0, overrunArmed := true, timer := none,
        counters :=
          { sampleSent := 0, controlSent := 0, dropped := 0, sampleFlushed := 0, controlFlushed := 0,
            stalls := 0 } }) ∧
  ∀ (s : State) (x : Tracker), (Tracker.restarted s x).waiting = x.waiting ∧
    ∀ r : RowIx, pick (Tracker.restarted s x).rows r =
      (pick x.rows r).map (fun y =>
        { y with
          cycle := if (s.activeBank y.format).header.isSome then .search else .unformatted, expected := 0,
          check := 0, miss := 0, current := 0, cycleCount := 0, losses := 0, mismatches := 0, broken := 0 })

/-! ### Invariants that every step keeps -/

/-- The links' bounds, the flushed state outside UP, the stall timer's and the arbiter's laws (R116, R121,
R125, R128). -/
def Obligations.StepKeepsLinksLawful : Prop :=
  ∀ s u : State, s.LinksLawful → step s = .next u → u.LinksLawful

/-- Free and held pool entries together stay the pool (R48). -/
def Obligations.StepKeepsPoolConserved : Prop :=
  ∀ s u : State, s.PoolConserved → step s = .next u → u.PoolConserved

/-- Every bank's slot map stays ordered and without overlap, its parameter list ordered, its entries in range
(R42 to R47). -/
def Obligations.StepKeepsStoreLawful : Prop :=
  ∀ s u : State, s.StoreLawful → step s = .next u → u.StoreLawful

/-- The profiles stay in range (R1), the synchronizer's and the rows' counts within their states (section
1.2.2, R5, R21). -/
def Obligations.StepKeepsCountsLawful : Prop :=
  ∀ s u : State, s.ProfilesLawful → s.ReceiversLawful → s.RowsLawful → step s = .next u →
    u.ProfilesLawful ∧ u.ReceiversLawful ∧ u.RowsLawful

/-- A standby stays ARMED, and a probation present, only while the format is bound to a row in CYCLE_LOCKED,
beside the standby and bank laws (R40, R41, R67, R73, R76). -/
def Obligations.StepKeepsSwitchLawful : Prop :=
  ∀ s u : State, s.SwitchLawful → step s = .next u → u.SwitchLawful

/-- Among the active banks, the ARMED standbys and the fallbacks on probation, no two format slots ever
define one parameter number (R66). -/
def Obligations.StepKeepsNumbersApart : Prop :=
  ∀ s u : State, s.FormatsLawful → s.NumbersApart → step s = .next u → u.FormatsLawful ∧ u.NumbersApart

/-- Each active bank keeps one context and one runtime for each of its definitions, and each limit machine
its candidate and run in step (R87, R99). -/
def Obligations.StepKeepsEvaluationLawful : Prop :=
  ∀ s u : State, s.EvaluationLawful → step s = .next u → u.EvaluationLawful

/-- The accept set stays non-empty, the queue within eight without a repeated tag, none queued behind an
IDLE engine, and an engine that waits without a notice waits on a full lane of an UP link (R143, R145,
R148, R153). -/
def Obligations.StepKeepsOrdersLawful : Prop :=
  ∀ s u : State, s.OrdersLawful → s.waitLawful = true → step s = .next u →
    u.OrdersLawful ∧ u.waitLawful = true

end
end

