-- ==== Sys2Proof/Laws/State.lean ====
section
/-! SUPPORT. What each update of the state does to each field and to each accessor: one lemma each, so that
no proof unfolds a record update. -/

namespace Sys2Proof.Machine

/-! ### Fields after each update -/

@[simp] theorem setReceiver_receivers (s : State) (t : Trunk) (x : Receiver) :
    (s.setReceiver t x).receivers = put s.receivers t x := rfl
@[simp] theorem setReceiver_trackers (s : State) (t : Trunk) (x : Receiver) : (s.setReceiver t x).trackers = s.trackers := rfl
@[simp] theorem setReceiver_formats (s : State) (t : Trunk) (x : Receiver) : (s.setReceiver t x).formats = s.formats := rfl
@[simp] theorem setReceiver_freeSlots (s : State) (t : Trunk) (x : Receiver) : (s.setReceiver t x).freeSlots = s.freeSlots := rfl
@[simp] theorem setReceiver_freeParams (s : State) (t : Trunk) (x : Receiver) : (s.setReceiver t x).freeParams = s.freeParams := rfl
@[simp] theorem setReceiver_contexts (s : State) (t : Trunk) (x : Receiver) : (s.setReceiver t x).contexts = s.contexts := rfl
@[simp] theorem setReceiver_runtimes (s : State) (t : Trunk) (x : Receiver) : (s.setReceiver t x).runtimes = s.runtimes := rfl
@[simp] theorem setReceiver_links (s : State) (t : Trunk) (x : Receiver) : (s.setReceiver t x).links = s.links := rfl
@[simp] theorem setReceiver_events (s : State) (t : Trunk) (x : Receiver) : (s.setReceiver t x).events = s.events := rfl
@[simp] theorem setReceiver_orders (s : State) (t : Trunk) (x : Receiver) : (s.setReceiver t x).orders = s.orders := rfl
@[simp] theorem setReceiver_draws (s : State) (t : Trunk) (x : Receiver) : (s.setReceiver t x).draws = s.draws := rfl
@[simp] theorem setReceiver_pending (s : State) (t : Trunk) (x : Receiver) : (s.setReceiver t x).pending = s.pending := rfl

@[simp] theorem setTracker_receivers (s : State) (t : Trunk) (x : Tracker) : (s.setTracker t x).receivers = s.receivers := rfl
@[simp] theorem setTracker_trackers (s : State) (t : Trunk) (x : Tracker) :
    (s.setTracker t x).trackers = put s.trackers t x := rfl
@[simp] theorem setTracker_formats (s : State) (t : Trunk) (x : Tracker) : (s.setTracker t x).formats = s.formats := rfl
@[simp] theorem setTracker_freeSlots (s : State) (t : Trunk) (x : Tracker) : (s.setTracker t x).freeSlots = s.freeSlots := rfl
@[simp] theorem setTracker_freeParams (s : State) (t : Trunk) (x : Tracker) : (s.setTracker t x).freeParams = s.freeParams := rfl
@[simp] theorem setTracker_contexts (s : State) (t : Trunk) (x : Tracker) : (s.setTracker t x).contexts = s.contexts := rfl
@[simp] theorem setTracker_runtimes (s : State) (t : Trunk) (x : Tracker) : (s.setTracker t x).runtimes = s.runtimes := rfl
@[simp] theorem setTracker_links (s : State) (t : Trunk) (x : Tracker) : (s.setTracker t x).links = s.links := rfl
@[simp] theorem setTracker_events (s : State) (t : Trunk) (x : Tracker) : (s.setTracker t x).events = s.events := rfl
@[simp] theorem setTracker_orders (s : State) (t : Trunk) (x : Tracker) : (s.setTracker t x).orders = s.orders := rfl
@[simp] theorem setTracker_draws (s : State) (t : Trunk) (x : Tracker) : (s.setTracker t x).draws = s.draws := rfl
@[simp] theorem setTracker_pending (s : State) (t : Trunk) (x : Tracker) : (s.setTracker t x).pending = s.pending := rfl

@[simp] theorem setFormat_receivers (s : State) (f : Slot) (x : FormatSlot) : (s.setFormat f x).receivers = s.receivers := rfl
@[simp] theorem setFormat_trackers (s : State) (f : Slot) (x : FormatSlot) : (s.setFormat f x).trackers = s.trackers := rfl
@[simp] theorem setFormat_formats (s : State) (f : Slot) (x : FormatSlot) :
    (s.setFormat f x).formats = put s.formats f x := rfl
@[simp] theorem setFormat_freeSlots (s : State) (f : Slot) (x : FormatSlot) : (s.setFormat f x).freeSlots = s.freeSlots := rfl
@[simp] theorem setFormat_freeParams (s : State) (f : Slot) (x : FormatSlot) : (s.setFormat f x).freeParams = s.freeParams := rfl
@[simp] theorem setFormat_contexts (s : State) (f : Slot) (x : FormatSlot) : (s.setFormat f x).contexts = s.contexts := rfl
@[simp] theorem setFormat_runtimes (s : State) (f : Slot) (x : FormatSlot) : (s.setFormat f x).runtimes = s.runtimes := rfl
@[simp] theorem setFormat_links (s : State) (f : Slot) (x : FormatSlot) : (s.setFormat f x).links = s.links := rfl
@[simp] theorem setFormat_events (s : State) (f : Slot) (x : FormatSlot) : (s.setFormat f x).events = s.events := rfl
@[simp] theorem setFormat_orders (s : State) (f : Slot) (x : FormatSlot) : (s.setFormat f x).orders = s.orders := rfl
@[simp] theorem setFormat_draws (s : State) (f : Slot) (x : FormatSlot) : (s.setFormat f x).draws = s.draws := rfl
@[simp] theorem setFormat_pending (s : State) (f : Slot) (x : FormatSlot) : (s.setFormat f x).pending = s.pending := rfl

@[simp] theorem setContexts_receivers (s : State) (f : Slot) (x : List Context) : (s.setContexts f x).receivers = s.receivers := rfl
@[simp] theorem setContexts_trackers (s : State) (f : Slot) (x : List Context) : (s.setContexts f x).trackers = s.trackers := rfl
@[simp] theorem setContexts_formats (s : State) (f : Slot) (x : List Context) : (s.setContexts f x).formats = s.formats := rfl
@[simp] theorem setContexts_freeSlots (s : State) (f : Slot) (x : List Context) : (s.setContexts f x).freeSlots = s.freeSlots := rfl
@[simp] theorem setContexts_freeParams (s : State) (f : Slot) (x : List Context) : (s.setContexts f x).freeParams = s.freeParams := rfl
@[simp] theorem setContexts_contexts (s : State) (f : Slot) (x : List Context) :
    (s.setContexts f x).contexts = put s.contexts f x := rfl
@[simp] theorem setContexts_runtimes (s : State) (f : Slot) (x : List Context) : (s.setContexts f x).runtimes = s.runtimes := rfl
@[simp] theorem setContexts_links (s : State) (f : Slot) (x : List Context) : (s.setContexts f x).links = s.links := rfl
@[simp] theorem setContexts_events (s : State) (f : Slot) (x : List Context) : (s.setContexts f x).events = s.events := rfl
@[simp] theorem setContexts_orders (s : State) (f : Slot) (x : List Context) : (s.setContexts f x).orders = s.orders := rfl
@[simp] theorem setContexts_draws (s : State) (f : Slot) (x : List Context) : (s.setContexts f x).draws = s.draws := rfl
@[simp] theorem setContexts_pending (s : State) (f : Slot) (x : List Context) : (s.setContexts f x).pending = s.pending := rfl

@[simp] theorem setRuntimes_receivers (s : State) (f : Slot) (x : List RuntimeEntry) : (s.setRuntimes f x).receivers = s.receivers := rfl
@[simp] theorem setRuntimes_trackers (s : State) (f : Slot) (x : List RuntimeEntry) : (s.setRuntimes f x).trackers = s.trackers := rfl
@[simp] theorem setRuntimes_formats (s : State) (f : Slot) (x : List RuntimeEntry) : (s.setRuntimes f x).formats = s.formats := rfl
@[simp] theorem setRuntimes_freeSlots (s : State) (f : Slot) (x : List RuntimeEntry) : (s.setRuntimes f x).freeSlots = s.freeSlots := rfl
@[simp] theorem setRuntimes_freeParams (s : State) (f : Slot) (x : List RuntimeEntry) : (s.setRuntimes f x).freeParams = s.freeParams := rfl
@[simp] theorem setRuntimes_contexts (s : State) (f : Slot) (x : List RuntimeEntry) : (s.setRuntimes f x).contexts = s.contexts := rfl
@[simp] theorem setRuntimes_runtimes (s : State) (f : Slot) (x : List RuntimeEntry) :
    (s.setRuntimes f x).runtimes = put s.runtimes f x := rfl
@[simp] theorem setRuntimes_links (s : State) (f : Slot) (x : List RuntimeEntry) : (s.setRuntimes f x).links = s.links := rfl
@[simp] theorem setRuntimes_events (s : State) (f : Slot) (x : List RuntimeEntry) : (s.setRuntimes f x).events = s.events := rfl
@[simp] theorem setRuntimes_orders (s : State) (f : Slot) (x : List RuntimeEntry) : (s.setRuntimes f x).orders = s.orders := rfl
@[simp] theorem setRuntimes_draws (s : State) (f : Slot) (x : List RuntimeEntry) : (s.setRuntimes f x).draws = s.draws := rfl
@[simp] theorem setRuntimes_pending (s : State) (f : Slot) (x : List RuntimeEntry) : (s.setRuntimes f x).pending = s.pending := rfl

@[simp] theorem setLink_receivers (s : State) (l : Link) (x : LinkTx) : (s.setLink l x).receivers = s.receivers := rfl
@[simp] theorem setLink_trackers (s : State) (l : Link) (x : LinkTx) : (s.setLink l x).trackers = s.trackers := rfl
@[simp] theorem setLink_formats (s : State) (l : Link) (x : LinkTx) : (s.setLink l x).formats = s.formats := rfl
@[simp] theorem setLink_freeSlots (s : State) (l : Link) (x : LinkTx) : (s.setLink l x).freeSlots = s.freeSlots := rfl
@[simp] theorem setLink_freeParams (s : State) (l : Link) (x : LinkTx) : (s.setLink l x).freeParams = s.freeParams := rfl
@[simp] theorem setLink_contexts (s : State) (l : Link) (x : LinkTx) : (s.setLink l x).contexts = s.contexts := rfl
@[simp] theorem setLink_runtimes (s : State) (l : Link) (x : LinkTx) : (s.setLink l x).runtimes = s.runtimes := rfl
@[simp] theorem setLink_links (s : State) (l : Link) (x : LinkTx) :
    (s.setLink l x).links = put s.links l x := rfl
@[simp] theorem setLink_events (s : State) (l : Link) (x : LinkTx) : (s.setLink l x).events = s.events := rfl
@[simp] theorem setLink_orders (s : State) (l : Link) (x : LinkTx) : (s.setLink l x).orders = s.orders := rfl
@[simp] theorem setLink_draws (s : State) (l : Link) (x : LinkTx) : (s.setLink l x).draws = s.draws := rfl
@[simp] theorem setLink_pending (s : State) (l : Link) (x : LinkTx) : (s.setLink l x).pending = s.pending := rfl

@[simp] theorem setEvents_receivers (s : State) (x : EventUnit) : (s.setEvents x).receivers = s.receivers := rfl
@[simp] theorem setEvents_trackers (s : State) (x : EventUnit) : (s.setEvents x).trackers = s.trackers := rfl
@[simp] theorem setEvents_formats (s : State) (x : EventUnit) : (s.setEvents x).formats = s.formats := rfl
@[simp] theorem setEvents_freeSlots (s : State) (x : EventUnit) : (s.setEvents x).freeSlots = s.freeSlots := rfl
@[simp] theorem setEvents_freeParams (s : State) (x : EventUnit) : (s.setEvents x).freeParams = s.freeParams := rfl
@[simp] theorem setEvents_contexts (s : State) (x : EventUnit) : (s.setEvents x).contexts = s.contexts := rfl
@[simp] theorem setEvents_runtimes (s : State) (x : EventUnit) : (s.setEvents x).runtimes = s.runtimes := rfl
@[simp] theorem setEvents_links (s : State) (x : EventUnit) : (s.setEvents x).links = s.links := rfl
@[simp] theorem setEvents_events (s : State) (x : EventUnit) : (s.setEvents x).events = x := rfl
@[simp] theorem setEvents_orders (s : State) (x : EventUnit) : (s.setEvents x).orders = s.orders := rfl
@[simp] theorem setEvents_draws (s : State) (x : EventUnit) : (s.setEvents x).draws = s.draws := rfl
@[simp] theorem setEvents_pending (s : State) (x : EventUnit) : (s.setEvents x).pending = s.pending := rfl

@[simp] theorem setOrders_receivers (s : State) (x : OrderUnit) : (s.setOrders x).receivers = s.receivers := rfl
@[simp] theorem setOrders_trackers (s : State) (x : OrderUnit) : (s.setOrders x).trackers = s.trackers := rfl
@[simp] theorem setOrders_formats (s : State) (x : OrderUnit) : (s.setOrders x).formats = s.formats := rfl
@[simp] theorem setOrders_freeSlots (s : State) (x : OrderUnit) : (s.setOrders x).freeSlots = s.freeSlots := rfl
@[simp] theorem setOrders_freeParams (s : State) (x : OrderUnit) : (s.setOrders x).freeParams = s.freeParams := rfl
@[simp] theorem setOrders_contexts (s : State) (x : OrderUnit) : (s.setOrders x).contexts = s.contexts := rfl
@[simp] theorem setOrders_runtimes (s : State) (x : OrderUnit) : (s.setOrders x).runtimes = s.runtimes := rfl
@[simp] theorem setOrders_links (s : State) (x : OrderUnit) : (s.setOrders x).links = s.links := rfl
@[simp] theorem setOrders_events (s : State) (x : OrderUnit) : (s.setOrders x).events = s.events := rfl
@[simp] theorem setOrders_orders (s : State) (x : OrderUnit) : (s.setOrders x).orders = x := rfl
@[simp] theorem setOrders_draws (s : State) (x : OrderUnit) : (s.setOrders x).draws = s.draws := rfl
@[simp] theorem setOrders_pending (s : State) (x : OrderUnit) : (s.setOrders x).pending = s.pending := rfl

@[simp] theorem setFree_receivers (s : State) (n m : Nat) : (s.setFree n m).receivers = s.receivers := rfl
@[simp] theorem setFree_trackers (s : State) (n m : Nat) : (s.setFree n m).trackers = s.trackers := rfl
@[simp] theorem setFree_formats (s : State) (n m : Nat) : (s.setFree n m).formats = s.formats := rfl
@[simp] theorem setFree_freeSlots (s : State) (n m : Nat) : (s.setFree n m).freeSlots = n := rfl
@[simp] theorem setFree_freeParams (s : State) (n m : Nat) : (s.setFree n m).freeParams = m := rfl
@[simp] theorem setFree_contexts (s : State) (n m : Nat) : (s.setFree n m).contexts = s.contexts := rfl
@[simp] theorem setFree_runtimes (s : State) (n m : Nat) : (s.setFree n m).runtimes = s.runtimes := rfl
@[simp] theorem setFree_links (s : State) (n m : Nat) : (s.setFree n m).links = s.links := rfl
@[simp] theorem setFree_events (s : State) (n m : Nat) : (s.setFree n m).events = s.events := rfl
@[simp] theorem setFree_orders (s : State) (n m : Nat) : (s.setFree n m).orders = s.orders := rfl
@[simp] theorem setFree_draws (s : State) (n m : Nat) : (s.setFree n m).draws = s.draws := rfl
@[simp] theorem setFree_pending (s : State) (n m : Nat) : (s.setFree n m).pending = s.pending := rfl

@[simp] theorem draw_receivers (s : State) : s.draw.receivers = s.receivers := rfl
@[simp] theorem draw_trackers (s : State) : s.draw.trackers = s.trackers := rfl
@[simp] theorem draw_formats (s : State) : s.draw.formats = s.formats := rfl
@[simp] theorem draw_freeSlots (s : State) : s.draw.freeSlots = s.freeSlots := rfl
@[simp] theorem draw_freeParams (s : State) : s.draw.freeParams = s.freeParams := rfl
@[simp] theorem draw_contexts (s : State) : s.draw.contexts = s.contexts := rfl
@[simp] theorem draw_runtimes (s : State) : s.draw.runtimes = s.runtimes := rfl
@[simp] theorem draw_links (s : State) : s.draw.links = s.links := rfl
@[simp] theorem draw_events (s : State) : s.draw.events = s.events := rfl
@[simp] theorem draw_orders (s : State) : s.draw.orders = s.orders := rfl
@[simp] theorem draw_draws (s : State) : s.draw.draws = s.draws + 1 := rfl
@[simp] theorem draw_pending (s : State) : s.draw.pending = s.pending := rfl

/-! ### Accessors after each update -/

@[simp] theorem setReceiver_receiver_same (s : State) (t : Trunk) (x : Receiver) : (s.setReceiver t x).receiver t = x := by
  simp [State.receiver, State.setReceiver]
theorem setReceiver_receiver (s : State) (t : Trunk) (x : Receiver) (k : Trunk) :
    (s.setReceiver t x).receiver k = if t = k then x else s.receiver k := by
  simp only [State.receiver, State.setReceiver, pick_put]
@[simp] theorem setReceiver_receiver_ne (s : State) (t : Trunk) (x : Receiver) (k : Trunk) (h : t ≠ k) :
    (s.setReceiver t x).receiver k = s.receiver k := by
  simp [setReceiver_receiver, h]
@[simp] theorem setTracker_receiver (s : State) (t : Trunk) (x : Tracker) (k : Trunk) : (s.setTracker t x).receiver k = s.receiver k := rfl
@[simp] theorem setFormat_receiver (s : State) (f : Slot) (x : FormatSlot) (k : Trunk) : (s.setFormat f x).receiver k = s.receiver k := rfl
@[simp] theorem setContexts_receiver (s : State) (f : Slot) (x : List Context) (k : Trunk) : (s.setContexts f x).receiver k = s.receiver k := rfl
@[simp] theorem setRuntimes_receiver (s : State) (f : Slot) (x : List RuntimeEntry) (k : Trunk) : (s.setRuntimes f x).receiver k = s.receiver k := rfl
@[simp] theorem setLink_receiver (s : State) (l : Link) (x : LinkTx) (k : Trunk) : (s.setLink l x).receiver k = s.receiver k := rfl
@[simp] theorem setEvents_receiver (s : State) (x : EventUnit) (k : Trunk) : (s.setEvents x).receiver k = s.receiver k := rfl
@[simp] theorem setOrders_receiver (s : State) (x : OrderUnit) (k : Trunk) : (s.setOrders x).receiver k = s.receiver k := rfl
@[simp] theorem setFree_receiver (s : State) (n m : Nat) (k : Trunk) : (s.setFree n m).receiver k = s.receiver k := rfl
@[simp] theorem draw_receiver (s : State) (k : Trunk) : s.draw.receiver k = s.receiver k := rfl

@[simp] theorem setReceiver_tracker (s : State) (t : Trunk) (x : Receiver) (k : Trunk) : (s.setReceiver t x).tracker k = s.tracker k := rfl
@[simp] theorem setTracker_tracker_same (s : State) (t : Trunk) (x : Tracker) : (s.setTracker t x).tracker t = x := by
  simp [State.tracker, State.setTracker]
theorem setTracker_tracker (s : State) (t : Trunk) (x : Tracker) (k : Trunk) :
    (s.setTracker t x).tracker k = if t = k then x else s.tracker k := by
  simp only [State.tracker, State.setTracker, pick_put]
@[simp] theorem setTracker_tracker_ne (s : State) (t : Trunk) (x : Tracker) (k : Trunk) (h : t ≠ k) :
    (s.setTracker t x).tracker k = s.tracker k := by
  simp [setTracker_tracker, h]
@[simp] theorem setFormat_tracker (s : State) (f : Slot) (x : FormatSlot) (k : Trunk) : (s.setFormat f x).tracker k = s.tracker k := rfl
@[simp] theorem setContexts_tracker (s : State) (f : Slot) (x : List Context) (k : Trunk) : (s.setContexts f x).tracker k = s.tracker k := rfl
@[simp] theorem setRuntimes_tracker (s : State) (f : Slot) (x : List RuntimeEntry) (k : Trunk) : (s.setRuntimes f x).tracker k = s.tracker k := rfl
@[simp] theorem setLink_tracker (s : State) (l : Link) (x : LinkTx) (k : Trunk) : (s.setLink l x).tracker k = s.tracker k := rfl
@[simp] theorem setEvents_tracker (s : State) (x : EventUnit) (k : Trunk) : (s.setEvents x).tracker k = s.tracker k := rfl
@[simp] theorem setOrders_tracker (s : State) (x : OrderUnit) (k : Trunk) : (s.setOrders x).tracker k = s.tracker k := rfl
@[simp] theorem setFree_tracker (s : State) (n m : Nat) (k : Trunk) : (s.setFree n m).tracker k = s.tracker k := rfl
@[simp] theorem draw_tracker (s : State) (k : Trunk) : s.draw.tracker k = s.tracker k := rfl

@[simp] theorem setReceiver_format (s : State) (t : Trunk) (x : Receiver) (k : Slot) : (s.setReceiver t x).format k = s.format k := rfl
@[simp] theorem setTracker_format (s : State) (t : Trunk) (x : Tracker) (k : Slot) : (s.setTracker t x).format k = s.format k := rfl
@[simp] theorem setFormat_format_same (s : State) (f : Slot) (x : FormatSlot) : (s.setFormat f x).format f = x := by
  simp [State.format, State.setFormat]
theorem setFormat_format (s : State) (f : Slot) (x : FormatSlot) (k : Slot) :
    (s.setFormat f x).format k = if f = k then x else s.format k := by
  simp only [State.format, State.setFormat, pick_put]
@[simp] theorem setFormat_format_ne (s : State) (f : Slot) (x : FormatSlot) (k : Slot) (h : f ≠ k) :
    (s.setFormat f x).format k = s.format k := by
  simp [setFormat_format, h]
@[simp] theorem setContexts_format (s : State) (f : Slot) (x : List Context) (k : Slot) : (s.setContexts f x).format k = s.format k := rfl
@[simp] theorem setRuntimes_format (s : State) (f : Slot) (x : List RuntimeEntry) (k : Slot) : (s.setRuntimes f x).format k = s.format k := rfl
@[simp] theorem setLink_format (s : State) (l : Link) (x : LinkTx) (k : Slot) : (s.setLink l x).format k = s.format k := rfl
@[simp] theorem setEvents_format (s : State) (x : EventUnit) (k : Slot) : (s.setEvents x).format k = s.format k := rfl
@[simp] theorem setOrders_format (s : State) (x : OrderUnit) (k : Slot) : (s.setOrders x).format k = s.format k := rfl
@[simp] theorem setFree_format (s : State) (n m : Nat) (k : Slot) : (s.setFree n m).format k = s.format k := rfl
@[simp] theorem draw_format (s : State) (k : Slot) : s.draw.format k = s.format k := rfl

@[simp] theorem setReceiver_activeBank (s : State) (t : Trunk) (x : Receiver) (k : Slot) : (s.setReceiver t x).activeBank k = s.activeBank k := rfl
@[simp] theorem setTracker_activeBank (s : State) (t : Trunk) (x : Tracker) (k : Slot) : (s.setTracker t x).activeBank k = s.activeBank k := rfl
@[simp] theorem setFormat_activeBank_same (s : State) (f : Slot) (x : FormatSlot) : (s.setFormat f x).activeBank f = x.activeBank := by
  simp [State.activeBank, State.format, State.setFormat]
theorem setFormat_activeBank (s : State) (f : Slot) (x : FormatSlot) (k : Slot) :
    (s.setFormat f x).activeBank k = if f = k then x.activeBank else s.activeBank k := by
  simp only [State.activeBank, State.format, State.setFormat, pick_put]; split <;> rfl
@[simp] theorem setFormat_activeBank_ne (s : State) (f : Slot) (x : FormatSlot) (k : Slot) (h : f ≠ k) :
    (s.setFormat f x).activeBank k = s.activeBank k := by
  simp [setFormat_activeBank, h]
@[simp] theorem setContexts_activeBank (s : State) (f : Slot) (x : List Context) (k : Slot) : (s.setContexts f x).activeBank k = s.activeBank k := rfl
@[simp] theorem setRuntimes_activeBank (s : State) (f : Slot) (x : List RuntimeEntry) (k : Slot) : (s.setRuntimes f x).activeBank k = s.activeBank k := rfl
@[simp] theorem setLink_activeBank (s : State) (l : Link) (x : LinkTx) (k : Slot) : (s.setLink l x).activeBank k = s.activeBank k := rfl
@[simp] theorem setEvents_activeBank (s : State) (x : EventUnit) (k : Slot) : (s.setEvents x).activeBank k = s.activeBank k := rfl
@[simp] theorem setOrders_activeBank (s : State) (x : OrderUnit) (k : Slot) : (s.setOrders x).activeBank k = s.activeBank k := rfl
@[simp] theorem setFree_activeBank (s : State) (n m : Nat) (k : Slot) : (s.setFree n m).activeBank k = s.activeBank k := rfl
@[simp] theorem draw_activeBank (s : State) (k : Slot) : s.draw.activeBank k = s.activeBank k := rfl

@[simp] theorem setReceiver_contextsOf (s : State) (t : Trunk) (x : Receiver) (k : Slot) : (s.setReceiver t x).contextsOf k = s.contextsOf k := rfl
@[simp] theorem setTracker_contextsOf (s : State) (t : Trunk) (x : Tracker) (k : Slot) : (s.setTracker t x).contextsOf k = s.contextsOf k := rfl
@[simp] theorem setFormat_contextsOf (s : State) (f : Slot) (x : FormatSlot) (k : Slot) : (s.setFormat f x).contextsOf k = s.contextsOf k := rfl
@[simp] theorem setContexts_contextsOf_same (s : State) (f : Slot) (x : List Context) : (s.setContexts f x).contextsOf f = x := by
  simp [State.contextsOf, State.setContexts]
theorem setContexts_contextsOf (s : State) (f : Slot) (x : List Context) (k : Slot) :
    (s.setContexts f x).contextsOf k = if f = k then x else s.contextsOf k := by
  simp only [State.contextsOf, State.setContexts, pick_put]
@[simp] theorem setContexts_contextsOf_ne (s : State) (f : Slot) (x : List Context) (k : Slot) (h : f ≠ k) :
    (s.setContexts f x).contextsOf k = s.contextsOf k := by
  simp [setContexts_contextsOf, h]
@[simp] theorem setRuntimes_contextsOf (s : State) (f : Slot) (x : List RuntimeEntry) (k : Slot) : (s.setRuntimes f x).contextsOf k = s.contextsOf k := rfl
@[simp] theorem setLink_contextsOf (s : State) (l : Link) (x : LinkTx) (k : Slot) : (s.setLink l x).contextsOf k = s.contextsOf k := rfl
@[simp] theorem setEvents_contextsOf (s : State) (x : EventUnit) (k : Slot) : (s.setEvents x).contextsOf k = s.contextsOf k := rfl
@[simp] theorem setOrders_contextsOf (s : State) (x : OrderUnit) (k : Slot) : (s.setOrders x).contextsOf k = s.contextsOf k := rfl
@[simp] theorem setFree_contextsOf (s : State) (n m : Nat) (k : Slot) : (s.setFree n m).contextsOf k = s.contextsOf k := rfl
@[simp] theorem draw_contextsOf (s : State) (k : Slot) : s.draw.contextsOf k = s.contextsOf k := rfl

@[simp] theorem setReceiver_runtimesOf (s : State) (t : Trunk) (x : Receiver) (k : Slot) : (s.setReceiver t x).runtimesOf k = s.runtimesOf k := rfl
@[simp] theorem setTracker_runtimesOf (s : State) (t : Trunk) (x : Tracker) (k : Slot) : (s.setTracker t x).runtimesOf k = s.runtimesOf k := rfl
@[simp] theorem setFormat_runtimesOf (s : State) (f : Slot) (x : FormatSlot) (k : Slot) : (s.setFormat f x).runtimesOf k = s.runtimesOf k := rfl
@[simp] theorem setContexts_runtimesOf (s : State) (f : Slot) (x : List Context) (k : Slot) : (s.setContexts f x).runtimesOf k = s.runtimesOf k := rfl
@[simp] theorem setRuntimes_runtimesOf_same (s : State) (f : Slot) (x : List RuntimeEntry) : (s.setRuntimes f x).runtimesOf f = x := by
  simp [State.runtimesOf, State.setRuntimes]
theorem setRuntimes_runtimesOf (s : State) (f : Slot) (x : List RuntimeEntry) (k : Slot) :
    (s.setRuntimes f x).runtimesOf k = if f = k then x else s.runtimesOf k := by
  simp only [State.runtimesOf, State.setRuntimes, pick_put]
@[simp] theorem setRuntimes_runtimesOf_ne (s : State) (f : Slot) (x : List RuntimeEntry) (k : Slot) (h : f ≠ k) :
    (s.setRuntimes f x).runtimesOf k = s.runtimesOf k := by
  simp [setRuntimes_runtimesOf, h]
@[simp] theorem setLink_runtimesOf (s : State) (l : Link) (x : LinkTx) (k : Slot) : (s.setLink l x).runtimesOf k = s.runtimesOf k := rfl
@[simp] theorem setEvents_runtimesOf (s : State) (x : EventUnit) (k : Slot) : (s.setEvents x).runtimesOf k = s.runtimesOf k := rfl
@[simp] theorem setOrders_runtimesOf (s : State) (x : OrderUnit) (k : Slot) : (s.setOrders x).runtimesOf k = s.runtimesOf k := rfl
@[simp] theorem setFree_runtimesOf (s : State) (n m : Nat) (k : Slot) : (s.setFree n m).runtimesOf k = s.runtimesOf k := rfl
@[simp] theorem draw_runtimesOf (s : State) (k : Slot) : s.draw.runtimesOf k = s.runtimesOf k := rfl

@[simp] theorem setReceiver_link (s : State) (t : Trunk) (x : Receiver) (k : Link) : (s.setReceiver t x).link k = s.link k := rfl
@[simp] theorem setTracker_link (s : State) (t : Trunk) (x : Tracker) (k : Link) : (s.setTracker t x).link k = s.link k := rfl
@[simp] theorem setFormat_link (s : State) (f : Slot) (x : FormatSlot) (k : Link) : (s.setFormat f x).link k = s.link k := rfl
@[simp] theorem setContexts_link (s : State) (f : Slot) (x : List Context) (k : Link) : (s.setContexts f x).link k = s.link k := rfl
@[simp] theorem setRuntimes_link (s : State) (f : Slot) (x : List RuntimeEntry) (k : Link) : (s.setRuntimes f x).link k = s.link k := rfl
@[simp] theorem setLink_link_same (s : State) (l : Link) (x : LinkTx) : (s.setLink l x).link l = x := by
  simp [State.link, State.setLink]
theorem setLink_link (s : State) (l : Link) (x : LinkTx) (k : Link) :
    (s.setLink l x).link k = if l = k then x else s.link k := by
  simp only [State.link, State.setLink, pick_put]
@[simp] theorem setLink_link_ne (s : State) (l : Link) (x : LinkTx) (k : Link) (h : l ≠ k) :
    (s.setLink l x).link k = s.link k := by
  simp [setLink_link, h]
@[simp] theorem setEvents_link (s : State) (x : EventUnit) (k : Link) : (s.setEvents x).link k = s.link k := rfl
@[simp] theorem setOrders_link (s : State) (x : OrderUnit) (k : Link) : (s.setOrders x).link k = s.link k := rfl
@[simp] theorem setFree_link (s : State) (n m : Nat) (k : Link) : (s.setFree n m).link k = s.link k := rfl
@[simp] theorem draw_link (s : State) (k : Link) : s.draw.link k = s.link k := rfl

@[simp] theorem setReceiver_row (s : State) (t : Trunk) (x : Receiver) (t' : Trunk) (r : RowIx) : (s.setReceiver t x).row t' r = s.row t' r := rfl
@[simp] theorem setReceiver_boundRow (s : State) (t : Trunk) (x : Receiver) (k : Slot) : (s.setReceiver t x).boundRow k = s.boundRow k := rfl
@[simp] theorem setFormat_row (s : State) (f : Slot) (x : FormatSlot) (t' : Trunk) (r : RowIx) : (s.setFormat f x).row t' r = s.row t' r := rfl
@[simp] theorem setFormat_boundRow (s : State) (f : Slot) (x : FormatSlot) (k : Slot) : (s.setFormat f x).boundRow k = s.boundRow k := rfl
@[simp] theorem setContexts_row (s : State) (f : Slot) (x : List Context) (t' : Trunk) (r : RowIx) : (s.setContexts f x).row t' r = s.row t' r := rfl
@[simp] theorem setContexts_boundRow (s : State) (f : Slot) (x : List Context) (k : Slot) : (s.setContexts f x).boundRow k = s.boundRow k := rfl
@[simp] theorem setRuntimes_row (s : State) (f : Slot) (x : List RuntimeEntry) (t' : Trunk) (r : RowIx) : (s.setRuntimes f x).row t' r = s.row t' r := rfl
@[simp] theorem setRuntimes_boundRow (s : State) (f : Slot) (x : List RuntimeEntry) (k : Slot) : (s.setRuntimes f x).boundRow k = s.boundRow k := rfl
@[simp] theorem setLink_row (s : State) (l : Link) (x : LinkTx) (t' : Trunk) (r : RowIx) : (s.setLink l x).row t' r = s.row t' r := rfl
@[simp] theorem setLink_boundRow (s : State) (l : Link) (x : LinkTx) (k : Slot) : (s.setLink l x).boundRow k = s.boundRow k := rfl
@[simp] theorem setEvents_row (s : State) (x : EventUnit) (t' : Trunk) (r : RowIx) : (s.setEvents x).row t' r = s.row t' r := rfl
@[simp] theorem setEvents_boundRow (s : State) (x : EventUnit) (k : Slot) : (s.setEvents x).boundRow k = s.boundRow k := rfl
@[simp] theorem setOrders_row (s : State) (x : OrderUnit) (t' : Trunk) (r : RowIx) : (s.setOrders x).row t' r = s.row t' r := rfl
@[simp] theorem setOrders_boundRow (s : State) (x : OrderUnit) (k : Slot) : (s.setOrders x).boundRow k = s.boundRow k := rfl
@[simp] theorem setFree_row (s : State) (n m : Nat) (t' : Trunk) (r : RowIx) : (s.setFree n m).row t' r = s.row t' r := rfl
@[simp] theorem setFree_boundRow (s : State) (n m : Nat) (k : Slot) : (s.setFree n m).boundRow k = s.boundRow k := rfl
@[simp] theorem draw_row (s : State) (t' : Trunk) (r : RowIx) : s.draw.row t' r = s.row t' r := rfl
@[simp] theorem draw_boundRow (s : State) (k : Slot) : s.draw.boundRow k = s.boundRow k := rfl

/-! ### Updating a place twice, or with what it holds -/

@[simp] theorem setReceiver_setReceiver (s : State) (t : Trunk) (x y : Receiver) :
    (s.setReceiver t x).setReceiver t y = s.setReceiver t y := by simp [State.setReceiver]
@[simp] theorem setTracker_setTracker (s : State) (t : Trunk) (x y : Tracker) :
    (s.setTracker t x).setTracker t y = s.setTracker t y := by simp [State.setTracker]
@[simp] theorem setFormat_setFormat (s : State) (f : Slot) (x y : FormatSlot) :
    (s.setFormat f x).setFormat f y = s.setFormat f y := by simp [State.setFormat]
@[simp] theorem setLink_setLink (s : State) (l : Link) (x y : LinkTx) :
    (s.setLink l x).setLink l y = s.setLink l y := by simp [State.setLink]
@[simp] theorem setEvents_setEvents (s : State) (x y : EventUnit) :
    (s.setEvents x).setEvents y = s.setEvents y := rfl
@[simp] theorem setOrders_setOrders (s : State) (x y : OrderUnit) :
    (s.setOrders x).setOrders y = s.setOrders y := rfl
@[simp] theorem setReceiver_self (s : State) (t : Trunk) : s.setReceiver t (s.receiver t) = s := by
  simp [State.setReceiver, State.receiver]
@[simp] theorem setTracker_self (s : State) (t : Trunk) : s.setTracker t (s.tracker t) = s := by
  simp [State.setTracker, State.tracker]
@[simp] theorem setFormat_self (s : State) (f : Slot) : s.setFormat f (s.format f) = s := by
  simp [State.setFormat, State.format]
@[simp] theorem setContexts_self (s : State) (f : Slot) : s.setContexts f (s.contextsOf f) = s := by
  simp [State.setContexts, State.contextsOf]
@[simp] theorem setRuntimes_self (s : State) (f : Slot) : s.setRuntimes f (s.runtimesOf f) = s := by
  simp [State.setRuntimes, State.runtimesOf]
@[simp] theorem setLink_self (s : State) (l : Link) : s.setLink l (s.link l) = s := by
  simp [State.setLink, State.link]
@[simp] theorem setEvents_self (s : State) : s.setEvents s.events = s := rfl
@[simp] theorem setOrders_self (s : State) : s.setOrders s.orders = s := rfl

/-! ### Rows and waiting frames -/

@[simp] theorem setRow_row_same (s : State) (t : Trunk) (r : RowIx) (x : Option Row) :
    (s.setRow t r x).row t r = x := by
  simp [State.setRow, State.row]

theorem setRow_row (s : State) (t t' : Trunk) (r r' : RowIx) (x : Option Row) :
    (s.setRow t r x).row t' r' = if t = t' ∧ r = r' then x else s.row t' r' := by
  simp only [State.setRow, State.row, setTracker_tracker]
  by_cases ht : t = t'
  · subst ht
    simp only [if_true, true_and, pick_put]
  · simp [ht]

@[simp] theorem setRow_setRow (s : State) (t : Trunk) (r : RowIx) (x y : Option Row) :
    (s.setRow t r x).setRow t r y = s.setRow t r y := by
  simp [State.setRow]

@[simp] theorem setRow_self (s : State) (t : Trunk) (r : RowIx) : s.setRow t r (s.row t r) = s := by
  simp only [State.setRow, State.row, put_pick_self]
  exact setTracker_self s t

@[simp] theorem setWaiting_self (s : State) (t : Trunk) : s.setWaiting t (s.tracker t).waiting = s :=
  setTracker_self s t

@[simp] theorem setWaiting_row (s : State) (t t' : Trunk) (w : List Waiting) (r : RowIx) :
    (s.setWaiting t w).row t' r = s.row t' r := by
  simp only [State.setWaiting, State.row, setTracker_tracker]
  by_cases ht : t = t'
  · subst ht; simp
  · simp [ht]

@[simp] theorem setRow_waiting (s : State) (t t' : Trunk) (r : RowIx) (x : Option Row) :
    ((s.setRow t r x).tracker t').waiting = (s.tracker t').waiting := by
  simp only [State.setRow, setTracker_tracker]
  by_cases ht : t = t'
  · subst ht; simp
  · simp [ht]

@[simp] theorem setRow_receiver (s : State) (t : Trunk) (r : RowIx) (x : Option Row) (k : Trunk) :
    (s.setRow t r x).receiver k = s.receiver k := rfl
@[simp] theorem setRow_format (s : State) (t : Trunk) (r : RowIx) (x : Option Row) (f : Slot) :
    (s.setRow t r x).format f = s.format f := rfl
@[simp] theorem setRow_activeBank (s : State) (t : Trunk) (r : RowIx) (x : Option Row) (f : Slot) :
    (s.setRow t r x).activeBank f = s.activeBank f := rfl
@[simp] theorem setRow_contextsOf (s : State) (t : Trunk) (r : RowIx) (x : Option Row) (f : Slot) :
    (s.setRow t r x).contextsOf f = s.contextsOf f := rfl
@[simp] theorem setRow_runtimesOf (s : State) (t : Trunk) (r : RowIx) (x : Option Row) (f : Slot) :
    (s.setRow t r x).runtimesOf f = s.runtimesOf f := rfl
@[simp] theorem setRow_link (s : State) (t : Trunk) (r : RowIx) (x : Option Row) (l : Link) :
    (s.setRow t r x).link l = s.link l := rfl
@[simp] theorem setRow_receivers (s : State) (t : Trunk) (r : RowIx) (x : Option Row) : (s.setRow t r x).receivers = s.receivers := rfl
@[simp] theorem setRow_formats (s : State) (t : Trunk) (r : RowIx) (x : Option Row) : (s.setRow t r x).formats = s.formats := rfl
@[simp] theorem setRow_freeSlots (s : State) (t : Trunk) (r : RowIx) (x : Option Row) : (s.setRow t r x).freeSlots = s.freeSlots := rfl
@[simp] theorem setRow_freeParams (s : State) (t : Trunk) (r : RowIx) (x : Option Row) : (s.setRow t r x).freeParams = s.freeParams := rfl
@[simp] theorem setRow_contexts (s : State) (t : Trunk) (r : RowIx) (x : Option Row) : (s.setRow t r x).contexts = s.contexts := rfl
@[simp] theorem setRow_runtimes (s : State) (t : Trunk) (r : RowIx) (x : Option Row) : (s.setRow t r x).runtimes = s.runtimes := rfl
@[simp] theorem setRow_links (s : State) (t : Trunk) (r : RowIx) (x : Option Row) : (s.setRow t r x).links = s.links := rfl
@[simp] theorem setRow_events (s : State) (t : Trunk) (r : RowIx) (x : Option Row) : (s.setRow t r x).events = s.events := rfl
@[simp] theorem setRow_orders (s : State) (t : Trunk) (r : RowIx) (x : Option Row) : (s.setRow t r x).orders = s.orders := rfl
@[simp] theorem setRow_draws (s : State) (t : Trunk) (r : RowIx) (x : Option Row) : (s.setRow t r x).draws = s.draws := rfl
@[simp] theorem setRow_pending (s : State) (t : Trunk) (r : RowIx) (x : Option Row) : (s.setRow t r x).pending = s.pending := rfl

@[simp] theorem setWaiting_receiver (s : State) (t : Trunk) (x : List Waiting) (k : Trunk) :
    (s.setWaiting t x).receiver k = s.receiver k := rfl
@[simp] theorem setWaiting_format (s : State) (t : Trunk) (x : List Waiting) (f : Slot) :
    (s.setWaiting t x).format f = s.format f := rfl
@[simp] theorem setWaiting_activeBank (s : State) (t : Trunk) (x : List Waiting) (f : Slot) :
    (s.setWaiting t x).activeBank f = s.activeBank f := rfl
@[simp] theorem setWaiting_contextsOf (s : State) (t : Trunk) (x : List Waiting) (f : Slot) :
    (s.setWaiting t x).contextsOf f = s.contextsOf f := rfl
@[simp] theorem setWaiting_runtimesOf (s : State) (t : Trunk) (x : List Waiting) (f : Slot) :
    (s.setWaiting t x).runtimesOf f = s.runtimesOf f := rfl
@[simp] theorem setWaiting_link (s : State) (t : Trunk) (x : List Waiting) (l : Link) :
    (s.setWaiting t x).link l = s.link l := rfl
@[simp] theorem setWaiting_receivers (s : State) (t : Trunk) (x : List Waiting) : (s.setWaiting t x).receivers = s.receivers := rfl
@[simp] theorem setWaiting_formats (s : State) (t : Trunk) (x : List Waiting) : (s.setWaiting t x).formats = s.formats := rfl
@[simp] theorem setWaiting_freeSlots (s : State) (t : Trunk) (x : List Waiting) : (s.setWaiting t x).freeSlots = s.freeSlots := rfl
@[simp] theorem setWaiting_freeParams (s : State) (t : Trunk) (x : List Waiting) : (s.setWaiting t x).freeParams = s.freeParams := rfl
@[simp] theorem setWaiting_contexts (s : State) (t : Trunk) (x : List Waiting) : (s.setWaiting t x).contexts = s.contexts := rfl
@[simp] theorem setWaiting_runtimes (s : State) (t : Trunk) (x : List Waiting) : (s.setWaiting t x).runtimes = s.runtimes := rfl
@[simp] theorem setWaiting_links (s : State) (t : Trunk) (x : List Waiting) : (s.setWaiting t x).links = s.links := rfl
@[simp] theorem setWaiting_events (s : State) (t : Trunk) (x : List Waiting) : (s.setWaiting t x).events = s.events := rfl
@[simp] theorem setWaiting_orders (s : State) (t : Trunk) (x : List Waiting) : (s.setWaiting t x).orders = s.orders := rfl
@[simp] theorem setWaiting_draws (s : State) (t : Trunk) (x : List Waiting) : (s.setWaiting t x).draws = s.draws := rfl
@[simp] theorem setWaiting_pending (s : State) (t : Trunk) (x : List Waiting) : (s.setWaiting t x).pending = s.pending := rfl

end Sys2Proof.Machine
end

