-- ==== Sys2Proof/Laws/Links.lean ====
section
/-! SUPPORT. What the operations of one link transmitter do: the fields they leave alone, and that each keeps
the link's laws. -/

namespace Sys2Proof.Machine

/-! ### The arbiter and the timer -/

/-- A start changes the credits, the record in transmission and the burst alone. -/
theorem LinkTx.start_frame (lk : LinkTx) :
    ∃ c x b, lk.start = { lk with credits := c, sending := x, burst := b } := by
  unfold LinkTx.start
  split
  · split
    · exact ⟨_, _, _, rfl⟩
    · split
      · exact ⟨_, _, _, rfl⟩
      · exact ⟨_, _, _, rfl⟩
  · exact ⟨_, _, _, rfl⟩

/-- Settling changes the credits, the record in transmission, the burst and the timer alone. -/
theorem LinkTx.settle_frame (lk : LinkTx) :
    ∃ c x b n, lk.settle = { lk with credits := c, sending := x, burst := b, timer := n } := by
  obtain ⟨c, x, b, h⟩ := lk.start_frame
  unfold LinkTx.settle LinkTx.runTimer
  rw [h]
  split
  · exact ⟨_, _, _, _, rfl⟩
  · exact ⟨_, _, _, _, rfl⟩

/-- A start keeps the laws of R116 and leaves no record waiting that could be started (R128). -/
theorem LinkTx.start_lawful {lk : LinkTx} (h : lk.Lawful) :
    lk.start.Lawful ∧
    (lk.start.state = .up ∧ 0 < lk.start.credits ∧ lk.start.sending = none →
      lk.start.control = [] ∧ lk.start.sample = []) := by
  obtain ⟨h1, h2, h3, h4, h5, h6, h7, h8, h9, h10, h11⟩ := h
  unfold LinkTx.start
  split
  next hu =>
    split
    next hc =>
      refine ⟨⟨h1, h2, ?_, ?_, h5, h6, ?_, h8, ?_, ?_, h11⟩, ?_⟩
      · simp only; omega
      · simp only; omega
      · intro hn; exact absurd hu.1 hn
      · intro _; exact hc.1
      · simp
      · simp
    next hc =>
      split
      next hs =>
        refine ⟨⟨h1, h2, ?_, ?_, h5, h6, ?_, h8, ?_, ?_, h11⟩, ?_⟩
        · simp only; omega
        · simp
        · intro hn; exact absurd hu.1 hn
        · simp
        · intro _; exact hs
        · simp
      next hs =>
        refine ⟨⟨h1, h2, h3, h4, h5, h6, h7, h8, h9, h10, h11⟩, ?_⟩
        intro _
        have hs' : lk.sample = [] := by simpa using hs
        refine ⟨?_, hs'⟩
        by_contra hne
        exact hc ⟨hne, Or.inr hs'⟩
  next hu =>
    refine ⟨⟨h1, h2, h3, h4, h5, h6, h7, h8, h9, h10, h11⟩, ?_⟩
    intro h'
    exact absurd h' hu

/-- Settling a link within its bounds, whose timer if it runs has 1 to 255 units left, gives a link that keeps
all its laws. -/
theorem LinkTx.settle_lawful {lk : LinkTx} (h : lk.Lawful) (ht : ∀ n ∈ lk.timer, 1 ≤ n ∧ n ≤ 255) :
    lk.settle.Lawful ∧ lk.settle.Scheduled := by
  obtain ⟨hl, hw⟩ := LinkTx.start_lawful h
  obtain ⟨c, x, b, hf⟩ := lk.start_frame
  have htm : lk.start.timer = lk.timer := by rw [hf]
  unfold LinkTx.settle LinkTx.runTimer
  split
  next hc =>
    refine ⟨hl, ⟨?_, ?_, hw⟩⟩
    · simpa [LinkTx.unstarted] using hc
    · intro n hn
      simp only [htm, Option.mem_def, Option.some.injEq] at hn
      cases hx : lk.timer with
      | none =>
        rw [hx] at hn
        simp only [Option.getD_none] at hn
        have := hl.2.2.2.2.1
        have := hl.2.2.2.2.2.1
        omega
      | some k =>
        rw [hx] at hn
        simp only [Option.getD_some] at hn
        have := ht k (by rw [hx]; rfl)
        omega
  next hc =>
    refine ⟨hl, ⟨?_, ?_, hw⟩⟩
    · simpa [LinkTx.unstarted] using hc
    · simp

/-- A record accepted at the tail of the control lane keeps the link's laws. -/
theorem LinkTx.pushControl_lawful {lk : LinkTx} (r : Record) (h : lk.Lawful) (hs : lk.Scheduled)
    (ha : lk.controlAnswer = .accepted) : (lk.pushControl r).Lawful ∧ (lk.pushControl r).Scheduled := by
  obtain ⟨h1, h2, h3, h4, h5, h6, h7, h8, h9, h10, h11⟩ := h
  unfold LinkTx.controlAnswer at ha
  split at ha
  next hu =>
    split at ha
    next hn =>
      apply LinkTx.settle_lawful
      · refine ⟨?_, h2, h3, h4, h5, h6, ?_, h8, ?_, h10, h11⟩
        · simp only [List.length_append, List.length_singleton]; omega
        · intro hx; exact absurd hu hx
        · simp
      · exact hs.2.1
    next => cases ha
  next => cases ha

/-- A record accepted at the tail of the sample lane keeps the link's laws. -/
theorem LinkTx.pushSample_lawful {lk : LinkTx} (r : Record) (h : lk.Lawful) (hs : lk.Scheduled)
    (ha : lk.sampleAnswer = .accepted) : (lk.pushSample r).Lawful ∧ (lk.pushSample r).Scheduled := by
  obtain ⟨h1, h2, h3, h4, h5, h6, h7, h8, h9, h10, h11⟩ := h
  unfold LinkTx.sampleAnswer at ha
  split at ha
  next hu =>
    split at ha
    next hn =>
      apply LinkTx.settle_lawful
      · refine ⟨h1, ?_, h3, h4, h5, h6, ?_, h8, h9, ?_, ?_⟩
        · simp only [List.length_append, List.length_singleton]; omega
        · intro hx; exact absurd hu hx
        · simp
        · intro hx
          have := h11 hx
          simp only [List.length_append, List.length_singleton]; omega
      · exact hs.2.1
    next => cases ha
  next => cases ha

/-! ### State changes of a link -/

/-- Entering DOWN keeps the link's laws. -/
theorem LinkTx.goDown_lawful {lk : LinkTx} (h : lk.Lawful) : lk.goDown.Lawful ∧ lk.goDown.Scheduled := by
  obtain ⟨h1, h2, h3, h4, h5, h6, h7, h8, h9, h10, h11⟩ := h
  refine ⟨⟨?_, ?_, ?_, ?_, h5, h6, ?_, ?_, ?_, ?_, ?_⟩, ⟨?_, ?_, ?_⟩⟩ <;> simp [LinkTx.goDown]

/-- Entering UP from DOWN keeps the link's laws. -/
theorem LinkTx.goUp_lawful {lk : LinkTx} (h : lk.Lawful) (hd : lk.state = .down) :
    lk.goUp.Lawful ∧ lk.goUp.Scheduled := by
  obtain ⟨h1, h2, h3, h4, h5, h6, h7, h8, h9, h10, h11⟩ := h
  have hl : lk.sample = [] := (h7 (by simp [hd])).2.1
  refine ⟨⟨?_, ?_, ?_, ?_, h5, h6, ?_, ?_, ?_, ?_, ?_⟩, ⟨?_, ?_, ?_⟩⟩ <;> simp [LinkTx.goUp, LinkTx.unstarted]
  · by_contra hx
    have := h11 (by simpa using hx)
    simp [hl] at this

/-- Entering STALLED, from UP without credit, keeps the link's laws. -/
theorem LinkTx.stall_lawful {lk : LinkTx} (h : lk.Lawful) (hs : lk.Scheduled) (ht : lk.timer.isSome = true) :
    lk.stall.Lawful ∧ lk.stall.Scheduled := by
  obtain ⟨h1, h2, h3, h4, h5, h6, h7, h8, h9, h10, h11⟩ := h
  have hu := hs.1.mp ht
  refine ⟨⟨?_, ?_, h3, ?_, h5, h6, ?_, ?_, ?_, ?_, ?_⟩, ⟨?_, ?_, ?_⟩⟩ <;> simp [LinkTx.stall, hu.2.1]
  · rw [h8, hu.1]; simp

/-- A credit return keeps the link's laws. -/
theorem LinkTx.credit_lawful {lk : LinkTx} (h : lk.Lawful) (hs : lk.Scheduled) :
    lk.credit.Lawful ∧ lk.credit.Scheduled := by
  have h0 := h
  obtain ⟨h1, h2, h3, h4, h5, h6, h7, h8, h9, h10, h11⟩ := h
  unfold LinkTx.credit
  cases hx : lk.state with
  | up =>
    apply LinkTx.settle_lawful
    · exact ⟨h1, h2, Nat.min_le_left _ _, h4, h5, h6, by simp, by simpa [hx] using h8, h9, h10, h11⟩
    · simp
  | stalled =>
    apply LinkTx.settle_lawful
    · refine ⟨h1, h2, by simp [Config.maxCredits], h4, h5, h6, ?_, ?_, h9, h10, h11⟩
      · simp
      · simpa [hx] using h8
    · exact hs.2.1
  | down => exact ⟨h0, hs⟩

/-- The departure of a sent record keeps the link's laws. -/
theorem LinkTx.sent_lawful {lk : LinkTx} (h : lk.Lawful) (hs : lk.Scheduled) :
    lk.sent.Lawful ∧ lk.sent.Scheduled := by
  have h0 := h
  obtain ⟨h1, h2, h3, h4, h5, h6, h7, h8, h9, h10, h11⟩ := h
  unfold LinkTx.sent
  split
  · exact ⟨h0, hs⟩
  · apply LinkTx.settle_lawful
    · refine ⟨?_, h2, h3, h4, h5, h6, ?_, h8, by simp, by simp, h11⟩
      · simp only [List.length_tail]; omega
      · intro hn
        obtain ⟨a, b, c⟩ := h7 hn
        exact ⟨by simp [a], b, c⟩
    · exact hs.2.1
  · apply LinkTx.settle_lawful
    · refine ⟨h1, ?_, h3, h4, h5, h6, ?_, h8, by simp, by simp, ?_⟩
      · simp only [List.length_tail]; omega
      · intro hn
        obtain ⟨a, b, c⟩ := h7 hn
        exact ⟨a, by simp [b], c⟩
      · intro hx
        simp only [Bool.or_eq_false_iff, decide_eq_false_iff_not, not_le] at hx
        exact hx.2
    · exact hs.2.1

/-- RESTART keeps the link's laws. -/
theorem LinkTx.restart_lawful {lk : LinkTx} (h : lk.Lawful) : lk.restart.Lawful ∧ lk.restart.Scheduled := by
  obtain ⟨h1, h2, h3, h4, h5, h6, h7, h8, h9, h10, h11⟩ := h
  have ht : ∀ xs : List Record, (xs.take 1).length ≤ 1 := fun xs => by simp [List.length_take]
  refine ⟨⟨?_, ?_, h3, ?_, h5, h6, ?_, h8, ?_, ?_, ?_⟩, ⟨?_, ?_, ?_⟩⟩ <;> simp only [LinkTx.restart]
  · split
    · exact le_trans (ht _) (by decide)
    · simp
  · split
    · exact le_trans (ht _) (by decide)
    · simp
  · simp
  · intro hn
    obtain ⟨a, b, c⟩ := h7 hn
    simp [a, b, c]
  · intro hx
    simp [hx, h9 hx]
  · intro hx
    simp [hx, h10 hx]
  · simp
  · simp only [Option.isSome_none, Bool.false_eq_true, LinkTx.unstarted, false_iff, not_and, not_lt]
    intro _ _
    cases hx : lk.sending with
    | none => simp
    | some x => cases x <;> simp
  · simp
  · rintro ⟨_, _, hx⟩
    simp [hx]

end Sys2Proof.Machine
end

