-- ==== Sys2Proof/Laws/Events.lean ====
section
/-! SUPPORT. What placing and posting do: they change links and the event unit alone (and a room notice the
order unit's), and keep the laws of the links. -/

namespace Sys2Proof.Machine

/-! ### Frames -/

/-- Placing an event changes links and the count of lost events alone. -/
theorem placeEvent_frame (l : Link) (r : Record) (s : State) :
    ∃ ls n, placeEvent l r s = { s with links := ls, events := { s.events with lost := n } } := by
  unfold placeEvent
  split
  · exact ⟨_, _, rfl⟩
  · exact ⟨_, _, rfl⟩
  · exact ⟨_, _, rfl⟩

/-- Posting an event changes links and the count of lost events alone. -/
theorem postEvent_frame (k : EventKind) (subject : Word) (cc : Count) (details : List Word) (s : State) :
    ∃ ls n, postEvent k subject cc details s = { s with links := ls, events := { s.events with lost := n } } := by
  unfold postEvent
  split
  · exact placeEvent_frame _ _ _
  · exact ⟨_, _, rfl⟩

/-- Posting LINK_STALLED changes links and the count of lost events alone. -/
theorem postLinkStalled_frame (l : Link) (a b c : Nat) (s : State) :
    ∃ ls n, postLinkStalled l a b c s = { s with links := ls, events := { s.events with lost := n } } := by
  unfold postLinkStalled
  split
  · exact placeEvent_frame _ _ _
  · exact ⟨_, _, rfl⟩

/-- Posting ORDERS_SHED changes links, the count of lost events and the shed report alone. -/
theorem postOrdersShed_frame (t : Trunk) (h : Word) (s : State) :
    ∃ ls n b, postOrdersShed t h s =
      { s with links := ls, events := { s.events with lost := n, shedArmed := b } } := by
  unfold postOrdersShed
  split
  · obtain ⟨ls, n, e⟩ := placeEvent_frame s.events.link (eventRecord .ordersShed (numWord t.val) 0 [h])
      (s.setEvents { s.events with shedArmed := false })
    exact ⟨ls, n, false, by rw [e]; rfl⟩
  · exact ⟨_, _, _, rfl⟩

/-- Posting ORDER_REFUSED changes links, the count of lost events and the refusal reports alone. -/
theorem postOrderRefused_frame (t : Trunk) (h : Word) (s : State) :
    ∃ ls n b, postOrderRefused t h s =
      { s with links := ls, events := { s.events with lost := n, refusalArmed := b } } := by
  unfold postOrderRefused
  split
  · obtain ⟨ls, n, e⟩ := placeEvent_frame s.events.link (eventRecord .orderRefused (numWord t.val) 0 [h])
      (s.setEvents { s.events with refusalArmed := withoutTrunk s.events.refusalArmed t })
    exact ⟨ls, n, _, by rw [e]; rfl⟩
  · exact ⟨_, _, _, rfl⟩

/-- Placing a sample record changes links and the count of lost events alone. -/
theorem placeSample_frame (l : Link) (number : Nat) (r : Record) (s : State) :
    ∃ ls n, placeSample l number r s = { s with links := ls, events := { s.events with lost := n } } := by
  unfold placeSample
  dsimp only
  split
  · exact ⟨_, _, rfl⟩
  · exact ⟨_, _, rfl⟩
  · split
    · obtain ⟨ls, n, e⟩ := postEvent_frame .laneOverrun (numWord l.val) 0 [numWord number]
        (s.setLink l
          { s.link l with
            counters := { (s.link l).counters with dropped := bump (s.link l).counters.dropped },
            overrunArmed := false })
      exact ⟨ls, n, by rw [e]; rfl⟩
    · exact ⟨_, _, rfl⟩

/-- Giving a room notice changes the notice alone. -/
theorem giveNotice_frame (l : Link) (k : RoomNotice) (s : State) :
    ∃ n, giveNotice l k s = { s with orders := { s.orders with notice := n } } := by
  unfold giveNotice
  split
  · split
    · exact ⟨_, rfl⟩
    · exact ⟨_, rfl⟩
  · exact ⟨_, rfl⟩
  · exact ⟨_, rfl⟩
  · exact ⟨_, rfl⟩
  · exact ⟨_, rfl⟩
  · exact ⟨_, rfl⟩

/-- A stall timer's expiry changes links, the count of lost events and the room notice alone. -/
theorem expireTimer_frame (l : Link) (s : State) :
    ∃ ls n k, expireTimer l s =
      { s with links := ls, events := { s.events with lost := n }, orders := { s.orders with notice := k } } := by
  unfold expireTimer
  dsimp only
  split
  · obtain ⟨ls, n, e⟩ := postLinkStalled_frame l (s.link l).sample.length (s.link l).control.length
      (s.link l).stallTime (s.setLink l (s.link l).stall)
    rw [e]
    obtain ⟨k, e'⟩ := giveNotice_frame l .leftUp
      { s.setLink l (s.link l).stall with
        links := ls, events := { (s.setLink l (s.link l).stall).events with lost := n } }
    exact ⟨ls, n, k, by rw [e']; rfl⟩
  · exact ⟨_, _, _, rfl⟩

/-! ### The laws of the links -/

/-- The laws of the links look at the links alone. -/
theorem linksLawful_of_links {s u : State} (h : s.LinksLawful) (hl : u.links = s.links) : u.LinksLawful := by
  intro l
  unfold State.link
  rw [hl]
  exact h l

/-- One link replaced by a lawful one. -/
theorem setLink_linksLawful {s : State} (h : s.LinksLawful) (l : Link) {x : LinkTx}
    (hx : x.Lawful ∧ x.Scheduled) : (s.setLink l x).LinksLawful := by
  intro k
  rw [setLink_link]
  split
  · exact hx
  · exact h k

/-- Placing an event keeps the laws of the links. -/
theorem placeEvent_linksLawful {s : State} (h : s.LinksLawful) (l : Link) (r : Record) :
    (placeEvent l r s).LinksLawful := by
  unfold placeEvent
  split
  next ha => exact setLink_linksLawful h l (LinkTx.pushControl_lawful r (h l).1 (h l).2 ha)
  · exact h
  · exact h

/-- Posting an event keeps the laws of the links. -/
theorem postEvent_linksLawful {s : State} (h : s.LinksLawful) (k : EventKind) (subject : Word) (cc : Count)
    (details : List Word) : (postEvent k subject cc details s).LinksLawful := by
  unfold postEvent
  split
  · exact placeEvent_linksLawful h _ _
  · exact h

/-- Posting LINK_STALLED keeps the laws of the links. -/
theorem postLinkStalled_linksLawful {s : State} (h : s.LinksLawful) (l : Link) (a b c : Nat) :
    (postLinkStalled l a b c s).LinksLawful := by
  unfold postLinkStalled
  split
  · exact placeEvent_linksLawful h _ _
  · exact h

/-- Posting ORDERS_SHED keeps the laws of the links. -/
theorem postOrdersShed_linksLawful {s : State} (h : s.LinksLawful) (t : Trunk) (hd : Word) :
    (postOrdersShed t hd s).LinksLawful := by
  unfold postOrdersShed
  split
  · apply placeEvent_linksLawful
    exact h
  · exact h

/-- Posting ORDER_REFUSED keeps the laws of the links. -/
theorem postOrderRefused_linksLawful {s : State} (h : s.LinksLawful) (t : Trunk) (hd : Word) :
    (postOrderRefused t hd s).LinksLawful := by
  unfold postOrderRefused
  split
  · apply placeEvent_linksLawful
    exact h
  · exact h

/-- A link with other counters, and its overrun report disarmed at most while its sample lane is full, is
lawful when it was. -/
theorem LinkTx.dropped_lawful {lk : LinkTx} (h : lk.Lawful ∧ lk.Scheduled) (c : LinkCounters) (b : Bool)
    (hb : b = lk.overrunArmed ∨ Config.overrunRearm < lk.sample.length) :
    ({ lk with counters := c, overrunArmed := b } : LinkTx).Lawful ∧
    ({ lk with counters := c, overrunArmed := b } : LinkTx).Scheduled := by
  obtain ⟨⟨h1, h2, h3, h4, h5, h6, h7, h8, h9, h10, h11⟩, hs⟩ := h
  refine ⟨⟨h1, h2, h3, h4, h5, h6, h7, h8, h9, h10, ?_⟩, hs⟩
  intro hx
  rcases hb with hb | hb
  · exact h11 (by rw [← hb]; exact hx)
  · exact hb

/-- Placing a sample record keeps the laws of the links. -/
theorem placeSample_linksLawful {s : State} (h : s.LinksLawful) (l : Link) (number : Nat) (r : Record) :
    (placeSample l number r s).LinksLawful := by
  unfold placeSample
  dsimp only
  split
  next ha => exact setLink_linksLawful h l (LinkTx.pushSample_lawful r (h l).1 (h l).2 ha)
  · exact setLink_linksLawful h l (LinkTx.dropped_lawful (h l) _ _ (Or.inl rfl))
  next ha =>
    split
    · apply postEvent_linksLawful
      refine setLink_linksLawful h l (LinkTx.dropped_lawful (h l) _ _ (Or.inr ?_))
      unfold LinkTx.sampleAnswer at ha
      split at ha
      · split at ha
        · cases ha
        next hn => simp only [Config.sampleLane, Config.overrunRearm] at *; omega
      · cases ha
    · exact setLink_linksLawful h l (LinkTx.dropped_lawful (h l) _ _ (Or.inl rfl))

/-- Giving a room notice leaves the links alone. -/
theorem giveNotice_links (l : Link) (k : RoomNotice) (s : State) : (giveNotice l k s).links = s.links := by
  obtain ⟨n, e⟩ := giveNotice_frame l k s
  rw [e]

/-- A stall timer's expiry keeps the laws of the links. -/
theorem expireTimer_linksLawful {s : State} (h : s.LinksLawful) (l : Link) : (expireTimer l s).LinksLawful := by
  unfold expireTimer
  dsimp only
  split
  next ht =>
    have h1 : (s.setLink l (s.link l).stall).LinksLawful :=
      setLink_linksLawful h l (LinkTx.stall_lawful (h l).1 (h l).2 ht)
    have h2 := postLinkStalled_linksLawful h1 l (s.link l).sample.length (s.link l).control.length
      (s.link l).stallTime
    obtain ⟨n, e⟩ := giveNotice_frame l .leftUp
      (postLinkStalled l (s.link l).sample.length (s.link l).control.length (s.link l).stallTime
        (s.setLink l (s.link l).stall))
    rw [e]
    exact h2
  · exact h

end Sys2Proof.Machine
end

