-- ==== Sys2Proof/Laws/Routing.lean ====
section
/-! SUPPORT. What the evaluation unit, the assembly unit and the slot router do: they change contexts,
runtimes, links and the count of lost events alone, keep the laws of the links, and keep one context and one
runtime for each definition. -/

namespace Sys2Proof.Machine

/-! ### Frames -/

/-- Evaluating a sample replaces one runtime and changes links and the count of lost events besides. -/
theorem evaluate_frame (d : ParamDef) (rt : Runtime) (x : Sample) (s : State) :
    ∃ rt' ls n, evaluate d rt x s =
      { s with
        runtimes := put s.runtimes x.format (replaceRuntime x.number rt' (s.runtimesOf x.format)),
        links := ls, events := { s.events with lost := n } } := by
  unfold evaluate
  dsimp only
  have h1 : ∃ ls n, (if (limitPart d x (noteSample x rt)).2 = true then
      postLimit x (noteSample x rt).limit (limitPart d x (noteSample x rt)).1.limit s else s) =
      { s with links := ls, events := { s.events with lost := n } } := by
    split
    · exact postEvent_frame _ _ _ _ _
    · exact ⟨_, _, rfl⟩
  obtain ⟨ls, n, e⟩ := h1
  rw [e]
  split
  · obtain ⟨ls', n', e'⟩ := placeSample_frame d.link x.number
      (sampleRecord x (limitPart d x (noteSample x rt)).2
        (d.limits.map (fun _ => (limitPart d x (noteSample x rt)).1.limit)))
      (State.setRuntime { s with links := ls, events := { s.events with lost := n } } x.format x.number
        (emitStep d.emission (limitPart d x (noteSample x rt)).2 x.value
          (limitPart d x (noteSample x rt)).1).1)
    exact ⟨_, ls', n', by rw [e']; rfl⟩
  · exact ⟨_, ls, n, rfl⟩

/-- Taking a sample changes runtimes, links and the count of lost events alone. -/
theorem takeSample_frame (x : Sample) (s : State) :
    ∃ rs ls n, takeSample x s = { s with runtimes := rs, links := ls, events := { s.events with lost := n } } := by
  unfold takeSample
  split
  · obtain ⟨rt', ls, n, e⟩ := evaluate_frame _ _ x s
    exact ⟨_, _, _, e⟩
  · exact ⟨_, _, _, rfl⟩

/-- Taking a piece changes contexts, runtimes, links and the count of lost events alone. -/
theorem takePiece_frame (p : Piece) (s : State) :
    ∃ cs rs ls n, takePiece p s =
      { s with contexts := cs, runtimes := rs, links := ls, events := { s.events with lost := n } } := by
  unfold takePiece
  split
  · exact ⟨_, _, _, _, rfl⟩
  · dsimp only
    split
    · obtain ⟨rs, ls, n, e⟩ := takeSample_frame _ _
      rw [e]
      exact ⟨_, _, _, _, rfl⟩
    · exact ⟨_, _, _, _, rfl⟩

/-- Routing words changes contexts, runtimes, links and the count of lost events alone. -/
theorem routeWords_frame (prof : Profile) (b : Bank) (t : Trunk) (r : RowIx) (f : Slot) (st : Standing)
    (cc : Count) (mark : Bool) (words : List Word) :
    ∀ (pos : Nat) (s : State), ∃ cs rs ls n, routeWords prof b t r f st cc mark pos words s =
      { s with contexts := cs, runtimes := rs, links := ls, events := { s.events with lost := n } } := by
  induction words with
  | nil => intro pos s; exact ⟨_, _, _, _, rfl⟩
  | cons w rest ih =>
    intro pos s
    unfold routeWords
    dsimp only
    split
    · split
      · exact ih _ _
      · next e _ =>
        obtain ⟨cs, rs, ls, n, h⟩ := takePiece_frame
          { number := e.param, index := e.piece, value := w.toNat, width := prof.width, mark := mark,
            frame := st.number, cycleCount := cc, trunk := t, row := r, format := f } s
        rw [h]
        exact ih _ _
    · exact ih _ _

/-- Routing a frame changes contexts, runtimes, links and the count of lost events alone. -/
theorem routeFrame_frame (t : Trunk) (r : RowIx) (st : Standing) (words : List Word) (mark : Bool) (s : State) :
    ∃ cs rs ls n, routeFrame t r st words mark s =
      { s with contexts := cs, runtimes := rs, links := ls, events := { s.events with lost := n } } := by
  unfold routeFrame
  split
  · exact ⟨_, _, _, _, rfl⟩
  · exact routeWords_frame _ _ _ _ _ _ _ _ _ _ _

/-! ### The laws of the links -/

/-- Evaluating a sample keeps the laws of the links. -/
theorem evaluate_linksLawful {s : State} (h : s.LinksLawful) (d : ParamDef) (rt : Runtime) (x : Sample) :
    (evaluate d rt x s).LinksLawful := by
  unfold evaluate
  dsimp only
  have h1 : (if (limitPart d x (noteSample x rt)).2 = true then
      postLimit x (noteSample x rt).limit (limitPart d x (noteSample x rt)).1.limit s else s).LinksLawful := by
    split
    · exact postEvent_linksLawful h _ _ _ _
    · exact h
  split
  · apply placeSample_linksLawful
    exact h1
  · exact h1

/-- Taking a sample keeps the laws of the links. -/
theorem takeSample_linksLawful {s : State} (h : s.LinksLawful) (x : Sample) : (takeSample x s).LinksLawful := by
  unfold takeSample
  split
  · exact evaluate_linksLawful h _ _ _
  · exact h

/-- Taking a piece keeps the laws of the links. -/
theorem takePiece_linksLawful {s : State} (h : s.LinksLawful) (p : Piece) : (takePiece p s).LinksLawful := by
  unfold takePiece
  split
  · exact h
  · dsimp only
    split
    · apply takeSample_linksLawful
      exact h
    · exact h

/-- Routing words keeps the laws of the links. -/
theorem routeWords_linksLawful (prof : Profile) (b : Bank) (t : Trunk) (r : RowIx) (f : Slot) (st : Standing)
    (cc : Count) (mark : Bool) (words : List Word) :
    ∀ (pos : Nat) (s : State), s.LinksLawful → (routeWords prof b t r f st cc mark pos words s).LinksLawful := by
  induction words with
  | nil => intro pos s h; exact h
  | cons w rest ih =>
    intro pos s h
    unfold routeWords
    dsimp only
    apply ih
    split
    · split
      · exact h
      · exact takePiece_linksLawful h _
    · exact h

/-- Routing a frame keeps the laws of the links. -/
theorem routeFrame_linksLawful {s : State} (h : s.LinksLawful) (t : Trunk) (r : RowIx) (st : Standing)
    (words : List Word) (mark : Bool) : (routeFrame t r st words mark s).LinksLawful := by
  unfold routeFrame
  split
  · exact h
  · exact routeWords_linksLawful _ _ _ _ _ _ _ _ _ _ _ h

/-! ### One context and one runtime for each definition -/

/-- A runtime whose candidate and run are in step (R99). -/
abbrev Runtime.Lawful (rt : Runtime) : Prop :=
  (rt.candidate = none ↔ rt.run = 0) ∧ rt.candidate ≠ some rt.limit

/-- The limit machine leaves candidate and run in step. -/
theorem limitStep_lawful (rt : Runtime) (p : Nat) (c : LimitClass) :
    (limitStep p c rt).1.Lawful := by
  unfold limitStep
  split
  · exact ⟨by simp, by simp⟩
  · next hc =>
    have key : ∀ run : Nat, 1 ≤ run →
        (if p ≤ run then (({ rt with limit := c, candidate := none, run := 0 } : Runtime), true)
          else ({ rt with candidate := some c, run := run }, false)).1.Lawful := by
      intro run hr
      split
      · exact ⟨by simp, by simp⟩
      · refine ⟨by simp; omega, ?_⟩
        intro hx
        exact hc (by simpa using hx)
    apply key
    split
    · omega
    · omega

/-- The emission rule leaves the limit machine alone. -/
theorem emitStep_limit (e : Emission) (forced : Bool) (v : Int) (rt : Runtime) :
    ∃ n x, (emitStep e forced v rt).1 = { rt with nth := n, emitted := x } := by
  unfold emitStep
  dsimp only
  cases e with
  | every => simp
  | nth k =>
    dsimp only
    split
    · simp
    · cases forced <;> simp
  | change d =>
    dsimp only
    cases rt.emitted with
    | none => simp
    | some last =>
      dsimp only
      split
      · exact ⟨_, _, rfl⟩
      · exact ⟨_, _, rfl⟩

/-- The numbers of a list of runtimes after one is replaced. -/
theorem replaceRuntime_numbers (number : Nat) (rt : Runtime) (es : List RuntimeEntry) :
    (replaceRuntime number rt es).map (fun e => e.number) = es.map (fun e => e.number) := by
  induction es with
  | nil => rfl
  | cons e es ih =>
    simp only [replaceRuntime, List.map_cons] at *
    rw [ih]
    split <;> rfl

/-- The numbers of a list of contexts after one is replaced. -/
theorem replaceContext_numbers (number : Nat) (c : Option Partial) (cs : List Context) :
    (replaceContext number c cs).map (fun x => x.number) = cs.map (fun x => x.number) := by
  induction cs with
  | nil => rfl
  | cons e es ih =>
    simp only [replaceContext, List.map_cons] at *
    rw [ih]
    split <;> rfl

/-- Runtimes stay lawful when one is replaced by a lawful one. -/
theorem replaceRuntime_lawful {number : Nat} {rt : Runtime} (h : rt.Lawful) {es : List RuntimeEntry}
    (he : ∀ e ∈ es, e.runtime.Lawful) : ∀ e ∈ replaceRuntime number rt es, e.runtime.Lawful := by
  intro e hx
  simp only [replaceRuntime, List.mem_map] at hx
  obtain ⟨a, ha, rfl⟩ := hx
  split
  · exact h
  · exact he a ha

/-- Evaluating a sample with a lawful runtime leaves a lawful runtime. -/
theorem evaluate_runtime (d : ParamDef) (rt : Runtime) (x : Sample) (s : State) (h : rt.Lawful) :
    ∃ rt', rt'.Lawful ∧ (evaluate d rt x s).runtimes =
      put s.runtimes x.format (replaceRuntime x.number rt' (s.runtimesOf x.format)) := by
  unfold evaluate
  dsimp only
  have hl : (limitPart d x (noteSample x rt)).1.Lawful := by
    unfold limitPart
    split
    · exact h
    · exact limitStep_lawful _ _ _
  have h1 : ∃ ls n, (if (limitPart d x (noteSample x rt)).2 = true then
      postLimit x (noteSample x rt).limit (limitPart d x (noteSample x rt)).1.limit s else s) =
      { s with links := ls, events := { s.events with lost := n } } := by
    split
    · exact postEvent_frame _ _ _ _ _
    · exact ⟨_, _, rfl⟩
  obtain ⟨ls, n, e⟩ := h1
  obtain ⟨k, y, he⟩ := emitStep_limit d.emission (limitPart d x (noteSample x rt)).2 x.value
    (limitPart d x (noteSample x rt)).1
  refine ⟨(emitStep d.emission (limitPart d x (noteSample x rt)).2 x.value
    (limitPart d x (noteSample x rt)).1).1, by rw [he]; exact hl, ?_⟩
  rw [e]
  split
  · obtain ⟨ls', n', e'⟩ := placeSample_frame d.link x.number
      (sampleRecord x (limitPart d x (noteSample x rt)).2
        (d.limits.map (fun _ => (limitPart d x (noteSample x rt)).1.limit)))
      (State.setRuntime { s with links := ls, events := { s.events with lost := n } } x.format x.number
        (emitStep d.emission (limitPart d x (noteSample x rt)).2 x.value
          (limitPart d x (noteSample x rt)).1).1)
    rw [e']
    rfl
  · rfl

/-- Taking a sample keeps one runtime for each definition, each lawful. -/
theorem takeSample_evaluationLawful {s : State} (h : s.EvaluationLawful) (x : Sample) :
    (takeSample x s).EvaluationLawful := by
  unfold takeSample
  split
  · next d rt _ hr =>
    have hrt : rt.Lawful := by
      simp only [State.runtime?, Option.map_eq_some_iff] at hr
      obtain ⟨e, he, rfl⟩ := hr
      exact (h x.format).2.2 e (List.mem_of_find?_eq_some he)
    obtain ⟨rt', hl, hq⟩ := evaluate_runtime d rt x s hrt
    obtain ⟨_, ls, n, e⟩ := evaluate_frame d rt x s
    intro f
    have ha : (evaluate d rt x s).activeBank f = s.activeBank f := by rw [e]; rfl
    have hc : (evaluate d rt x s).contextsOf f = s.contextsOf f := by rw [e]; rfl
    have hrs : (evaluate d rt x s).runtimesOf f =
        if x.format = f then replaceRuntime x.number rt' (s.runtimesOf x.format) else s.runtimesOf f := by
      simp only [State.runtimesOf, hq, pick_put]
    rw [ha, hc, hrs]
    obtain ⟨a, b, c⟩ := h f
    split
    · next hf =>
      subst hf
      refine ⟨a, ?_, replaceRuntime_lawful hl c⟩
      rw [replaceRuntime_numbers]
      exact b
    · exact ⟨a, b, c⟩
  · exact h

/-- Contexts replaced by as many of the same numbers. -/
theorem setContexts_evaluationLawful {s : State} (h : s.EvaluationLawful) (f : Slot) (cs : List Context)
    (hn : cs.map (fun x => x.number) = (s.contextsOf f).map (fun x => x.number)) :
    (s.setContexts f cs).EvaluationLawful := by
  intro g
  obtain ⟨a, b, c⟩ := h g
  have hc : (s.setContexts f cs).contextsOf g = if f = g then cs else s.contextsOf g := by
    rw [setContexts_contextsOf]
  refine ⟨?_, b, c⟩
  rw [hc]
  split
  · next hf =>
    subst hf
    rw [hn]
    exact a
  · exact a

/-- Taking a piece keeps one context and one runtime for each definition. -/
theorem takePiece_evaluationLawful {s : State} (h : s.EvaluationLawful) (p : Piece) :
    (takePiece p s).EvaluationLawful := by
  unfold takePiece
  split
  · exact h
  · dsimp only
    split
    · apply takeSample_evaluationLawful
      exact setContexts_evaluationLawful h _ _ (replaceContext_numbers _ _ _)
    · exact setContexts_evaluationLawful h _ _ (replaceContext_numbers _ _ _)

/-- Routing words keeps one context and one runtime for each definition. -/
theorem routeWords_evaluationLawful (prof : Profile) (b : Bank) (t : Trunk) (r : RowIx) (f : Slot)
    (st : Standing) (cc : Count) (mark : Bool) (words : List Word) :
    ∀ (pos : Nat) (s : State), s.EvaluationLawful →
      (routeWords prof b t r f st cc mark pos words s).EvaluationLawful := by
  induction words with
  | nil => intro pos s h; exact h
  | cons w rest ih =>
    intro pos s h
    unfold routeWords
    dsimp only
    apply ih
    split
    · split
      · exact h
      · exact takePiece_evaluationLawful h _
    · exact h

/-- Routing a frame keeps one context and one runtime for each definition. -/
theorem routeFrame_evaluationLawful {s : State} (h : s.EvaluationLawful) (t : Trunk) (r : RowIx) (st : Standing)
    (words : List Word) (mark : Bool) : (routeFrame t r st words mark s).EvaluationLawful := by
  unfold routeFrame
  split
  · exact h
  · exact routeWords_evaluationLawful _ _ _ _ _ _ _ _ _ _ _ h

/-- A broken context is EMPTY; no context comes or goes. -/
theorem breakContexts_evaluationLawful {s : State} (h : s.EvaluationLawful) (f : Slot) :
    (breakContexts f s).EvaluationLawful := by
  apply setContexts_evaluationLawful h
  simp

end Sys2Proof.Machine
end

