-- ==== Sys2Proof/Laws/Keeps.lean ====
section
/-! SUPPORT. What the trackers' and the switch control's operations keep, said once for all of them: bank
contents, bindings and tags, receivers but for their counters, queues and pool counts, and the laws of the
links, of the evaluation unit and of the rows. -/

namespace Sys2Proof.Machine

/-- What a row is bound to: its format slot and its tag. -/
def Row.key (x : Row) : Slot × Option Nat := (x.format, x.tag)

/-- `u` follows from `s` by handling frames, lock losses and switches: nothing but the places named in `frame`
is another, no bank's content, no binding, no profile is, and the laws of links, evaluation and rows hold in
`u` when they do in `s`. -/
structure Keeps (s u : State) : Prop where
  frame : u = { s with
    receivers := u.receivers, trackers := u.trackers, formats := u.formats, contexts := u.contexts,
    runtimes := u.runtimes, links := u.links, events := u.events }
  banks : ∀ f, (u.format f).bankA = (s.format f).bankA ∧ (u.format f).bankB = (s.format f).bankB
  keys : ∀ t r, (u.row t r).map Row.key = (s.row t r).map Row.key
  receivers : ∀ t, ∃ c, u.receiver t = { s.receiver t with counters := c }
  links : s.LinksLawful → u.LinksLawful
  evaluation : s.EvaluationLawful → u.EvaluationLawful
  rows : s.RowsLawful → u.RowsLawful
  full : ∀ l, (s.link l).state = .up → Config.controlLane ≤ (s.link l).control.length →
    (u.link l).state = .up ∧ Config.controlLane ≤ (u.link l).control.length

theorem Keeps.refl (s : State) : Keeps s s :=
  ⟨rfl, fun _ => ⟨rfl, rfl⟩, fun _ _ => rfl, fun _ => ⟨_, rfl⟩, id, id, id, fun _ a b => ⟨a, b⟩⟩

theorem Keeps.trans {s u v : State} (h : Keeps s u) (k : Keeps u v) : Keeps s v where
  frame := by
    have hf := h.frame
    have kf := k.frame
    rw [kf]
    rw [hf]
  banks f := ⟨(k.banks f).1.trans (h.banks f).1, (k.banks f).2.trans (h.banks f).2⟩
  keys t r := (k.keys t r).trans (h.keys t r)
  receivers t := by
    obtain ⟨c, hc⟩ := h.receivers t
    obtain ⟨d, hd⟩ := k.receivers t
    exact ⟨d, by rw [hd, hc]⟩
  links := k.links ∘ h.links
  evaluation := k.evaluation ∘ h.evaluation
  rows := k.rows ∘ h.rows
  full l a b := k.full l (h.full l a b).1 (h.full l a b).2

/-- A fold of kept steps is kept. -/
theorem Keeps.foldl {α : Type} (step : State → α → State) (h : ∀ s a, Keeps s (step s a)) (xs : List α) :
    ∀ s, Keeps s (xs.foldl step s) := by
  induction xs with
  | nil => intro s; exact Keeps.refl s
  | cons x xs ih => intro s; exact (h s x).trans (ih _)

/-! ### Single updates -/

/-- Full control lanes of links that are UP stay so when an event is placed. -/
theorem placeEvent_full (l : Link) (r : Record) (s : State) (k : Link) (hu : (s.link k).state = .up)
    (hn : Config.controlLane ≤ (s.link k).control.length) :
    ((placeEvent l r s).link k).state = .up ∧
    Config.controlLane ≤ ((placeEvent l r s).link k).control.length := by
  unfold placeEvent
  split
  · rw [setLink_link]
    split
    next hk =>
      subst hk
      unfold LinkTx.pushControl
      obtain ⟨c, x, b, n, e⟩ := LinkTx.settle_frame { s.link l with control := (s.link l).control ++ [r] }
      rw [e]
      refine ⟨hu, ?_⟩
      simp only [List.length_append]
      omega
    · exact ⟨hu, hn⟩
  · exact ⟨hu, hn⟩
  · exact ⟨hu, hn⟩

/-- Full control lanes of links that are UP stay so when an event is posted. -/
theorem postEvent_full (kind : EventKind) (subject : Word) (cc : Count) (details : List Word) (s : State)
    (k : Link) (hu : (s.link k).state = .up) (hn : Config.controlLane ≤ (s.link k).control.length) :
    ((postEvent kind subject cc details s).link k).state = .up ∧
    Config.controlLane ≤ ((postEvent kind subject cc details s).link k).control.length := by
  unfold postEvent
  split
  · exact placeEvent_full _ _ _ _ hu hn
  · exact ⟨hu, hn⟩

/-- Full control lanes of links that are UP stay so when a sample record is placed. -/
theorem placeSample_full (l : Link) (number : Nat) (r : Record) (s : State) (k : Link)
    (hu : (s.link k).state = .up) (hn : Config.controlLane ≤ (s.link k).control.length) :
    ((placeSample l number r s).link k).state = .up ∧
    Config.controlLane ≤ ((placeSample l number r s).link k).control.length := by
  have hset : ∀ x : LinkTx, x.state = (s.link l).state → x.control = (s.link l).control →
      ((s.setLink l x).link k).state = .up ∧
      Config.controlLane ≤ ((s.setLink l x).link k).control.length := by
    intro x h1 h2
    rw [setLink_link]
    split
    next hk =>
      subst hk
      rw [h1, h2]
      exact ⟨hu, hn⟩
    · exact ⟨hu, hn⟩
  unfold placeSample
  dsimp only
  split
  · unfold LinkTx.pushSample
    obtain ⟨c, x, b, n, e⟩ := LinkTx.settle_frame { s.link l with sample := (s.link l).sample ++ [r] }
    rw [e]
    exact hset _ rfl rfl
  · exact hset _ rfl rfl
  · split
    · have hx := hset
        { s.link l with
          counters := { (s.link l).counters with dropped := bump (s.link l).counters.dropped },
          overrunArmed := false } rfl rfl
      exact postEvent_full _ _ _ _ _ _ hx.1 hx.2
    · exact hset _ rfl rfl

/-- A change of links and events alone. -/
theorem Keeps.ofLinks {s u : State} (hf : u = { s with links := u.links, events := u.events })
    (hl : s.LinksLawful → u.LinksLawful)
    (hn : ∀ l, (s.link l).state = .up → Config.controlLane ≤ (s.link l).control.length →
      (u.link l).state = .up ∧ Config.controlLane ≤ (u.link l).control.length) : Keeps s u where
  frame := by rw [hf]
  banks f := by rw [hf]; exact ⟨rfl, rfl⟩
  keys t r := by rw [hf]; rfl
  receivers t := by rw [hf]; exact ⟨_, rfl⟩
  links := hl
  evaluation h := by rw [hf]; exact h
  rows h := by rw [hf]; exact h
  full := hn

/-- Posting an event. -/
theorem postEvent_keeps (k : EventKind) (subject : Word) (cc : Count) (details : List Word) (s : State) :
    Keeps s (postEvent k subject cc details s) := by
  apply Keeps.ofLinks
  · obtain ⟨ls, n, e⟩ := postEvent_frame k subject cc details s
    rw [e]
  · intro h
    exact postEvent_linksLawful h _ _ _ _
  · exact fun l a b => postEvent_full _ _ _ _ _ _ a b

/-- Placing a sample record. -/
theorem placeSample_keeps (l : Link) (number : Nat) (r : Record) (s : State) :
    Keeps s (placeSample l number r s) := by
  apply Keeps.ofLinks
  · obtain ⟨ls, n, e⟩ := placeSample_frame l number r s
    rw [e]
  · intro h
    exact placeSample_linksLawful h _ _ _
  · exact fun k a b => placeSample_full _ _ _ _ _ a b

/-- A change of contexts, runtimes, links and events alone, which keeps the laws of links and evaluation. -/
theorem Keeps.ofRouting {s u : State}
    (hf : u = { s with contexts := u.contexts, runtimes := u.runtimes, links := u.links, events := u.events })
    (hl : s.LinksLawful → u.LinksLawful) (he : s.EvaluationLawful → u.EvaluationLawful)
    (hn : ∀ l, (s.link l).state = .up → Config.controlLane ≤ (s.link l).control.length →
      (u.link l).state = .up ∧ Config.controlLane ≤ (u.link l).control.length) : Keeps s u where
  frame := by rw [hf]
  banks f := by rw [hf]; exact ⟨rfl, rfl⟩
  keys t r := by rw [hf]; rfl
  receivers t := by rw [hf]; exact ⟨_, rfl⟩
  links := hl
  evaluation := he
  rows h := by rw [hf]; exact h
  full := hn

/-- Contexts replaced by as many of the same numbers. -/
theorem setContexts_keeps (f : Slot) (cs : List Context) (s : State)
    (hn : cs.map (fun x => x.number) = (s.contextsOf f).map (fun x => x.number)) :
    Keeps s (s.setContexts f cs) :=
  Keeps.ofRouting rfl id (fun h => setContexts_evaluationLawful h f cs hn) (fun _ a b => ⟨a, b⟩)

/-- Taking a sample. -/
theorem takeSample_keeps (x : Sample) (s : State) : Keeps s (takeSample x s) := by
  apply Keeps.ofRouting
  · obtain ⟨rs, ls, n, e⟩ := takeSample_frame x s
    rw [e]
  · exact fun h => takeSample_linksLawful h x
  · exact fun h => takeSample_evaluationLawful h x
  · intro l a b
    unfold takeSample
    split
    · next d rt _ _ =>
      unfold evaluate
      dsimp only
      have h1 : ∀ s1, (s1 = if (limitPart d x (noteSample x rt)).2 = true then
          postLimit x (noteSample x rt).limit (limitPart d x (noteSample x rt)).1.limit s else s) →
          (s1.link l).state = .up ∧ Config.controlLane ≤ (s1.link l).control.length := by
        intro s1 hs1
        subst hs1
        split
        · exact postEvent_full _ _ _ _ _ _ a b
        · exact ⟨a, b⟩
      have h2 := h1 _ rfl
      split
      · exact placeSample_full _ _ _ _ _ h2.1 h2.2
      · exact h2
    · exact ⟨a, b⟩

/-- Taking a piece. -/
theorem takePiece_keeps (p : Piece) (s : State) : Keeps s (takePiece p s) := by
  unfold takePiece
  split
  · exact Keeps.refl s
  · dsimp only
    split
    · exact (setContexts_keeps _ _ _ (replaceContext_numbers _ _ _)).trans (takeSample_keeps _ _)
    · exact setContexts_keeps _ _ _ (replaceContext_numbers _ _ _)

/-- Routing words. -/
theorem routeWords_keeps (prof : Profile) (b : Bank) (t : Trunk) (r : RowIx) (f : Slot) (st : Standing)
    (cc : Count) (mark : Bool) (words : List Word) :
    ∀ (pos : Nat) (s : State), Keeps s (routeWords prof b t r f st cc mark pos words s) := by
  induction words with
  | nil => intro pos s; exact Keeps.refl s
  | cons w rest ih =>
    intro pos s
    unfold routeWords
    dsimp only
    refine Keeps.trans ?_ (ih _ _)
    split
    · split
      · exact Keeps.refl s
      · exact takePiece_keeps _ _
    · exact Keeps.refl s

/-- Routing a frame. -/
theorem routeFrame_keeps (t : Trunk) (r : RowIx) (st : Standing) (words : List Word) (mark : Bool) (s : State) :
    Keeps s (routeFrame t r st words mark s) := by
  unfold routeFrame
  split
  · exact Keeps.refl s
  · exact routeWords_keeps _ _ _ _ _ _ _ _ _ _ _

/-! ### Rows -/

/-- One occupied row replaced by one bound alike, lawful when the first is. -/
theorem setRow_keeps {s : State} {t : Trunk} {r : RowIx} {x y : Row} (hx : s.row t r = some x)
    (hk : y.key = x.key) (hl : x.Lawful → y.Lawful) : Keeps s (s.setRow t r (some y)) where
  frame := rfl
  banks _ := ⟨rfl, rfl⟩
  keys t' r' := by
    rw [setRow_row]
    split
    next h =>
      obtain ⟨rfl, rfl⟩ := h
      rw [hx]
      simp [hk]
    · rfl
  receivers _ := ⟨_, rfl⟩
  links := id
  evaluation := id
  rows h := by
    intro t' r' z hz
    rw [setRow_row] at hz
    split at hz
    next hc =>
      obtain ⟨rfl, rfl⟩ := hc
      cases hz
      exact hl (h t r x hx)
    · exact h t' r' z hz
  full _ a b := ⟨a, b⟩

/-- An occupied row changed. -/
theorem onRow_keeps (t : Trunk) (r : RowIx) (g : Row → Row) (s : State) (hk : ∀ x, (g x).key = x.key)
    (hl : ∀ x, s.row t r = some x → x.Lawful → (g x).Lawful) : Keeps s (s.onRow t r g) := by
  unfold State.onRow
  split
  · exact Keeps.refl s
  · next x hx => exact setRow_keeps hx (hk x) (hl x hx)

/-- An occupied row changed, with its CYCLE_SYNC. -/
theorem changeRow_keeps (t : Trunk) (r : RowIx) (g : Row → Row) (s : State)
    (hk : ∀ x, s.row t r = some x → (g x).key = x.key)
    (hl : ∀ x, s.row t r = some x → x.Lawful → (g x).Lawful) : Keeps s (changeRow t r g s) := by
  unfold changeRow
  split
  · exact Keeps.refl s
  · next x hx =>
    split
    · exact setRow_keeps hx (hk x hx) (hl x hx)
    · exact (setRow_keeps hx (hk x hx) (hl x hx)).trans (postEvent_keeps _ _ _ _ _)

/-- Contexts broken. -/
theorem breakContexts_keeps (f : Slot) (s : State) : Keeps s (breakContexts f s) := by
  apply setContexts_keeps
  simp

/-- Contexts broken and counted. -/
theorem breakCounted_keeps (f : Slot) (t : Trunk) (r : RowIx) (s : State) : Keeps s (breakCounted f t r s) := by
  unfold breakCounted
  refine Keeps.trans ?_ (breakContexts_keeps _ _)
  exact onRow_keeps _ _ _ _ (fun _ => rfl) (fun _ _ h => h)

/-! ### Switch control -/

/-- A format slot with the same bank contents and the same active bank. -/
theorem setFormat_keeps (f : Slot) (x : FormatSlot) (s : State) (ha : x.active = (s.format f).active)
    (hA : x.bankA = (s.format f).bankA) (hB : x.bankB = (s.format f).bankB) : Keeps s (s.setFormat f x) where
  frame := rfl
  banks g := by
    rw [setFormat_format]
    split
    next h => subst h; exact ⟨hA, hB⟩
    · exact ⟨rfl, rfl⟩
  keys _ _ := rfl
  receivers _ := ⟨_, rfl⟩
  links := id
  evaluation h := by
    intro g
    have hb : (s.setFormat f x).activeBank g = s.activeBank g := by
      rw [setFormat_activeBank]
      split
      next hg =>
        subst hg
        unfold FormatSlot.activeBank State.activeBank FormatSlot.activeBank
        rw [ha]
        cases (s.format f).active
        · exact hA
        · exact hB
      · rfl
    rw [hb]
    exact h g
  rows := id
  full _ a b := ⟨a, b⟩

/-- A probation passed. -/
theorem passProbation_keeps (f : Slot) (s : State) : Keeps s (passProbation f s) := by
  unfold passProbation
  refine Keeps.trans ?_ (postEvent_keeps _ _ _ _ _)
  exact setFormat_keeps f _ s rfl rfl rfl

/-- A row adjusted to a new active bank is bound as before. -/
theorem adjustRow_key (b : Bank) (x : Row) : (adjustRow b x).key = x.key := by
  unfold adjustRow
  split
  · rfl
  · rfl
  · rfl
  · split
    · rfl
    · split <;> rfl

/-- A lawful row adjusted to a new active bank is lawful. -/
theorem adjustRow_lawful (b : Bank) (x : Row) (h : x.Lawful) : (adjustRow b x).Lawful := by
  obtain ⟨h1, h2⟩ := h
  unfold adjustRow
  split
  next hc => exact ⟨fun _ => h1 (by simp [hc]), fun _ => h2 (by simp [hc])⟩
  next hc => exact ⟨fun _ => rfl, fun _ => h2 (by simp [hc])⟩
  · exact ⟨h1, h2⟩
  · split
    · exact ⟨h1, h2⟩
    · split
      · exact ⟨h1, h2⟩
      · exact ⟨h1, h2⟩

/-- A runtime carried across a switch is lawful when it was before. -/
theorem carryOne_lawful (old : Bank) {es : List RuntimeEntry} (he : ∀ e ∈ es, e.runtime.Lawful)
    (new : ParamDef) : (carryOne old es new).number = new.number ∧ (carryOne old es new).runtime.Lawful := by
  have hf : Runtime.fresh.Lawful := ⟨by simp [Runtime.fresh], by simp [Runtime.fresh]⟩
  unfold carryOne
  split
  · next d e _ hfind =>
    split
    · refine ⟨rfl, ?_⟩
      have hx := he e (List.mem_of_find?_eq_some hfind)
      unfold adjustCarried
      dsimp only
      split
      · exact hx
      · exact ⟨by simp [Runtime.limitReset], by simp [Runtime.limitReset]⟩
    · exact ⟨rfl, hf⟩
  · exact ⟨rfl, hf⟩

/-- The part of a switch before its event and the row's adjustment. -/
def switchCore (f : Slot) (cause : SwitchCause) (s : State) : State :=
  (((countDiscarded f (s.setFormat f ((s.format f).switched cause))).setContexts f
    (emptyContexts (s.format f).standbyBank)).setRuntimes f
      (carryRuntimes (s.format f).activeBank (s.format f).standbyBank (s.runtimesOf f)))

theorem switchFormat_eq (f : Slot) (cause : SwitchCause) (s : State) :
    switchFormat f cause s = adjustBound f (postBankSwitch f cause (switchCore f cause s)) := rfl

/-- The discarded contexts are counted on a row alone. -/
theorem countDiscarded_keeps (f : Slot) (s : State) : Keeps s (countDiscarded f s) := by
  unfold countDiscarded
  split
  · exact Keeps.refl s
  · exact onRow_keeps _ _ _ _ (fun _ => rfl) (fun _ _ h => h)

/-- Counting discarded contexts changes a row alone. -/
theorem countDiscarded_frame (f : Slot) (s : State) : ∃ ts, countDiscarded f s = { s with trackers := ts } := by
  unfold countDiscarded
  split
  · exact ⟨_, rfl⟩
  · unfold State.onRow
    split
    · exact ⟨_, rfl⟩
    · exact ⟨_, rfl⟩

/-- The bank that was the standby is active after the roles are exchanged. -/
theorem FormatSlot.switched_activeBank (x : FormatSlot) (cause : SwitchCause) :
    (x.switched cause).activeBank = x.standbyBank := by
  unfold FormatSlot.activeBank FormatSlot.standbyBank FormatSlot.switched
  cases x.active <;> rfl

/-- The bank that was active is the standby after the roles are exchanged. -/
theorem FormatSlot.switched_standbyBank (x : FormatSlot) (cause : SwitchCause) :
    (x.switched cause).standbyBank = x.activeBank := by
  unfold FormatSlot.activeBank FormatSlot.standbyBank FormatSlot.switched
  cases x.active <;> rfl

/-- A switch up to its event. -/
theorem switchCore_keeps (f : Slot) (cause : SwitchCause) (s : State) : Keeps s (switchCore f cause s) := by
  obtain ⟨ts, e⟩ := countDiscarded_frame f (s.setFormat f ((s.format f).switched cause))
  have hk := countDiscarded_keeps f (s.setFormat f ((s.format f).switched cause))
  unfold switchCore
  refine ⟨?_, ?_, ?_, ?_, ?_, ?_, ?_, ?_⟩
  · rw [e]
    rfl
  · intro g
    have := hk.banks g
    refine ⟨this.1.trans ?_, this.2.trans ?_⟩
    · rw [setFormat_format]
      split
      next h => subst h; rfl
      · rfl
    · rw [setFormat_format]
      split
      next h => subst h; rfl
      · rfl
  · exact hk.keys
  · exact hk.receivers
  · exact hk.links
  · intro h g
    have ha : ((((countDiscarded f (s.setFormat f ((s.format f).switched cause))).setContexts f
        (emptyContexts (s.format f).standbyBank)).setRuntimes f
        (carryRuntimes (s.format f).activeBank (s.format f).standbyBank (s.runtimesOf f)))).activeBank g =
        (s.setFormat f ((s.format f).switched cause)).activeBank g := by
      rw [e]
      rfl
    rw [ha, setFormat_activeBank, setRuntimes_contextsOf, setContexts_contextsOf, setRuntimes_runtimesOf]
    split
    next hg =>
      subst hg
      rw [FormatSlot.switched_activeBank]
      have hc : ∀ d : ParamDef, (carryOne (s.format f).activeBank (s.runtimesOf f) d).number = d.number ∧
          (carryOne (s.format f).activeBank (s.runtimesOf f) d).runtime.Lawful :=
        fun d => carryOne_lawful _ (h f).2.2 d
      refine ⟨?_, ?_, ?_⟩
      · simp [emptyContexts]
      · simp [carryRuntimes, hc]
      · intro x hx
        simp only [carryRuntimes, List.mem_map] at hx
        obtain ⟨d, _, rfl⟩ := hx
        exact (hc d).2
    next hg =>
      obtain ⟨a, b, c⟩ := h g
      have h1 : (countDiscarded f (s.setFormat f ((s.format f).switched cause))).contextsOf g =
          s.contextsOf g := by rw [e]; rfl
      have h2 : ((countDiscarded f (s.setFormat f ((s.format f).switched cause))).setContexts f
          (emptyContexts (s.format f).standbyBank)).runtimesOf g = s.runtimesOf g := by rw [e]; rfl
      rw [h1, h2]
      exact ⟨a, b, c⟩
  · exact hk.rows
  · exact hk.full

/-- The bound row adjusted. -/
theorem adjustBound_keeps (f : Slot) (s : State) : Keeps s (adjustBound f s) := by
  unfold adjustBound
  split
  · exact Keeps.refl s
  · exact changeRow_keeps _ _ _ _ (fun x _ => adjustRow_key _ x) (fun x _ h => adjustRow_lawful _ x h)

/-- A switch. -/
theorem switchFormat_keeps (f : Slot) (cause : SwitchCause) (s : State) : Keeps s (switchFormat f cause s) :=
  (switchCore_keeps f cause s).trans ((postEvent_keeps _ _ _ _ _).trans (adjustBound_keeps _ _))

/-- The switch control's part of an order. -/
theorem settleFormat_keeps (cause : SwitchCause) (s : State) (f : Slot) : Keeps s (settleFormat cause s f) := by
  unfold settleFormat
  split
  · exact switchFormat_keeps _ _ _
  · split
    · exact passProbation_keeps _ _
    · exact Keeps.refl s

/-- The switch control's part of an order, for several format slots. -/
theorem settleFormats_keeps (cause : SwitchCause) (fs : List Slot) (s : State) :
    Keeps s (fs.foldl (settleFormat cause) s) :=
  Keeps.foldl (settleFormat cause) (fun s f => settleFormat_keeps cause s f) fs s

/-- The switch control at a cycle boundary. -/
theorem switchAtBoundary_keeps (f : Slot) (s : State) : Keeps s (switchAtBoundary f s) := by
  unfold switchAtBoundary
  split
  · exact switchFormat_keeps _ _ _
  · split
    · exact Keeps.refl s
    · split
      · exact passProbation_keeps _ _
      · exact setFormat_keeps f _ s rfl rfl rfl

/-- The switch control at a loss of lock. -/
theorem switchAtLoss_keeps (f : Slot) (cause : LossCause) (s : State) : Keeps s (switchAtLoss f cause s) := by
  unfold switchAtLoss
  split
  · exact switchFormat_keeps _ _ _
  · split
    · exact switchFormat_keeps _ _ _
    · exact Keeps.refl s

/-! ### The tracker -/

/-- A loss of lock. -/
theorem loseLock_keeps (t : Trunk) (r : RowIx) (cause : LossCause) (s : State) :
    Keeps s (loseLock t r cause s) := by
  unfold loseLock
  split
  · exact Keeps.refl s
  · dsimp only
    refine Keeps.trans ?_ ((breakCounted_keeps _ _ _ _).trans (switchAtLoss_keeps _ _ _))
    refine changeRow_keeps _ _ _ _ (fun _ _ => rfl) ?_
    intro x _ h
    exact ⟨fun _ => rfl, fun _ => rfl⟩

/-- The delivery-ended signal at one row. -/
theorem endRow_keeps (t : Trunk) (cause : LossCause) (s : State) (r : RowIx) : Keeps s (endRow t cause s r) := by
  unfold endRow
  split
  · exact Keeps.refl s
  · next x hx =>
    split
    · exact loseLock_keeps _ _ _ _
    · next hc =>
      refine changeRow_keeps _ _ _ _ (fun _ _ => rfl) ?_
      intro y hy h
      rw [hx] at hy
      cases hy
      exact ⟨fun _ => rfl, fun _ => h.2 (by simp [hc])⟩
    · exact Keeps.refl s
    · exact Keeps.refl s

/-- The delivery-ended signal. -/
theorem endDelivery_keeps (t : Trunk) (cause : LossCause) (s : State) : Keeps s (endDelivery t cause s) :=
  Keeps.foldl (endRow t cause) (fun s r => endRow_keeps t cause s r) rowList s

/-- What the cycle state machine makes of a row in CYCLE_SEARCH is bound alike and lawful. -/
theorem searchRow_keeps (h : Header) (words : List Word) (x : Row) (hc : x.cycle = .search) :
    (searchRow h words x).1.key = x.key ∧ (x.Lawful → (searchRow h words x).1.Lawful) := by
  unfold searchRow
  split
  · exact ⟨rfl, fun _ => ⟨fun _ => rfl, fun _ => rfl⟩⟩
  · split
    · exact ⟨rfl, id⟩
    · split
      · exact ⟨rfl, fun k => ⟨fun n => absurd rfl n, fun _ => k.2 (by simp [hc])⟩⟩
      · exact ⟨rfl, fun _ => ⟨fun _ => rfl, fun _ => rfl⟩⟩

/-- What the cycle state machine makes of a row in CYCLE_CHECK is bound alike and lawful. -/
theorem checkRow_keeps (h : Header) (words : List Word) (x : Row) (hc : x.cycle = .check) :
    (checkRow h words x).1.key = x.key ∧ (x.Lawful → (checkRow h words x).1.Lawful) := by
  unfold checkRow
  split
  · exact ⟨rfl, fun k => ⟨fun _ => rfl, fun _ => k.2 (by simp [hc])⟩⟩
  · split
    · split
      · exact ⟨rfl, fun k => ⟨fun n => absurd rfl n, fun _ => k.2 (by simp [hc])⟩⟩
      · exact ⟨rfl, fun _ => ⟨fun _ => rfl, fun _ => rfl⟩⟩
    · exact ⟨rfl, fun k => ⟨fun n => absurd rfl n, fun _ => k.2 (by simp [hc])⟩⟩

/-- What the cycle state machine makes of a row in CYCLE_LOCKED is bound alike, locked and lawful. -/
theorem lockedRow_keeps (h : Header) (words : List Word) (x : Row) (hc : x.cycle = .locked) :
    (lockedRow h words x).key = x.key ∧ (lockedRow h words x).cycle = .locked ∧
    (x.Lawful → (lockedRow h words x).Lawful) := by
  unfold lockedRow
  split
  · exact ⟨rfl, hc, id⟩
  · split
    · exact ⟨rfl, hc, fun k => ⟨k.1, fun _ => rfl⟩⟩
    · exact ⟨rfl, hc, fun k => ⟨k.1, fun n => absurd hc n⟩⟩

/-- The cycle state machine. -/
theorem cycleStep_keeps (t : Trunk) (r : RowIx) (h : Header) (words : List Word) (x : Row) (s : State)
    (hx : s.row t r = some x) : Keeps s (cycleStep t r h words x s).1 := by
  unfold cycleStep
  split
  · exact Keeps.refl s
  · next hc =>
    obtain ⟨a, b⟩ := searchRow_keeps h words x hc
    refine changeRow_keeps _ _ _ _ ?_ ?_
    · intro y hy
      rw [hx] at hy
      cases hy
      exact a
    · intro y hy hl
      rw [hx] at hy
      cases hy
      exact b hl
  · next hc =>
    obtain ⟨a, b⟩ := checkRow_keeps h words x hc
    refine changeRow_keeps _ _ _ _ ?_ ?_
    · intro y hy
      rw [hx] at hy
      cases hy
      exact a
    · intro y hy hl
      rw [hx] at hy
      cases hy
      exact b hl
  · next hc =>
    obtain ⟨a, _, b⟩ := lockedRow_keeps h words x hc
    dsimp only
    split
    · exact (setRow_keeps hx a b).trans (loseLock_keeps _ _ _ _)
    · exact setRow_keeps hx a b

/-- A cycle boundary. -/
theorem cycleBoundary_keeps (t : Trunk) (r : RowIx) (s : State) : Keeps s (cycleBoundary t r s) := by
  unfold cycleBoundary
  split
  · exact Keeps.refl s
  · refine Keeps.trans ?_ ((breakCounted_keeps _ _ _ _).trans (switchAtBoundary_keeps _ _))
    exact onRow_keeps _ _ _ _ (fun _ => rfl) (fun _ _ h => h)

/-- A frame at an occupied row. -/
theorem rowFrame_keeps (t : Trunk) (r : RowIx) (x : Row) (words : List Word) (mark : Bool) (s : State)
    (hx : s.row t r = some x) : Keeps s (rowFrame t r x words mark s) := by
  unfold rowFrame
  split
  · exact Keeps.refl s
  · split
    · exact Keeps.refl s
    · next h _ =>
      dsimp only
      have h1 := (cycleStep_keeps t r h words x s hx).trans
        (routeFrame_keeps t r (cycleStep t r h words x s).2 words mark (cycleStep t r h words x s).1)
      split
      · exact h1.trans (cycleBoundary_keeps _ _ _)
      · exact h1

/-- The counters of a receiver changed. -/
theorem onCounters_keeps (t : Trunk) (g : TrunkCounters → TrunkCounters) (s : State) :
    Keeps s (s.onCounters t g) where
  frame := rfl
  banks _ := ⟨rfl, rfl⟩
  keys _ _ := rfl
  receivers k := by
    unfold State.onCounters
    rw [setReceiver_receiver]
    split
    next h => subst h; exact ⟨_, rfl⟩
    · exact ⟨_, rfl⟩
  links := id
  evaluation := id
  rows := id
  full _ a b := ⟨a, b⟩

/-- A frame at the tracker. -/
theorem processFrame_keeps (t : Trunk) (words : List Word) (mark : Bool) (s : State) :
    Keeps s (processFrame t words mark s) := by
  unfold processFrame
  dsimp only
  split
  · exact onCounters_keeps _ _ _
  · split
    · exact onCounters_keeps _ _ _
    · next hx => exact rowFrame_keeps _ _ _ _ _ _ hx

/-- What waits at a tracker replaced. -/
theorem setWaiting_keeps (t : Trunk) (w : List Waiting) (s : State) : Keeps s (s.setWaiting t w) where
  frame := rfl
  banks _ := ⟨rfl, rfl⟩
  keys t' r' := by rw [setWaiting_row]
  receivers _ := ⟨_, rfl⟩
  links := id
  evaluation := id
  rows h := by
    intro t' r' x hx
    rw [setWaiting_row] at hx
    exact h t' r' x hx
  full _ a b := ⟨a, b⟩

/-- One waiting thing taken. -/
theorem takeWaiting_keeps (t : Trunk) (s : State) (w : Waiting) : Keeps s (takeWaiting t s w) := by
  unfold takeWaiting
  split
  · exact processFrame_keeps _ _ _ _
  · exact endDelivery_keeps _ _ _

/-- Everything that waits taken. -/
theorem drainWaiting_keeps (t : Trunk) (s : State) : Keeps s (drainWaiting t s) :=
  (setWaiting_keeps t [] s).trans (Keeps.foldl (takeWaiting t) (fun s w => takeWaiting_keeps t s w) _ _)

/-- Delivery-ended signals at the head taken. -/
theorem takeSignals_keeps (t : Trunk) (ws : List Waiting) : ∀ s, Keeps s (takeSignals t ws s) := by
  induction ws with
  | nil => intro s; exact Keeps.refl s
  | cons w rest ih =>
    intro s
    cases w with
    | frame words mark => exact Keeps.refl s
    | deliveryEnded => exact (setWaiting_keeps _ _ _).trans ((endDelivery_keeps _ _ _).trans (ih _))

/-- A delivered frame. -/
theorem trackerFrame_keeps (t : Trunk) (words : List Word) (mark : Bool) (s : State) :
    Keeps s (trackerFrame t words mark s) := by
  unfold trackerFrame
  split
  · split
    · exact setWaiting_keeps _ _ _
    · exact Keeps.refl s
  · exact (drainWaiting_keeps _ _).trans (processFrame_keeps _ _ _ _)

/-- The delivery-ended signal of a sync loss. -/
theorem trackerEnded_keeps (t : Trunk) (s : State) : Keeps s (trackerEnded t s) := by
  unfold trackerEnded
  split
  · exact setWaiting_keeps _ _ _
  · exact (drainWaiting_keeps _ _).trans (endDelivery_keeps _ _ _)

/-- A waiting frame taken. -/
theorem waitingFrame_keeps (t : Trunk) (s : State) : Keeps s (waitingFrame t s) := by
  unfold waitingFrame
  split
  · exact Keeps.refl s
  · split
    · exact Keeps.refl s
    · exact (setWaiting_keeps _ _ _).trans ((endDelivery_keeps _ _ _).trans (takeSignals_keeps _ _ _))
    · exact (setWaiting_keeps _ _ _).trans ((processFrame_keeps _ _ _ _).trans (takeSignals_keeps _ _ _))

end Sys2Proof.Machine
end

