-- ==== Sys2Proof/Laws/Orders.lean ====
section
/-! SUPPORT. What the order engine does: taking orders, replying, carrying out; and that replies keep the laws
of the links and of the order unit. -/

namespace Sys2Proof.Machine

/-! ### Frames -/

/-- Taking the next order changes the engine, the queue and the shed report alone. -/
theorem takeNext_frame (s : State) :
    ∃ e q b, takeNext s =
      { s with orders := { s.orders with engine := e, queue := q }, events := { s.events with shedArmed := b } } := by
  unfold takeNext
  split
  · dsimp only
    split
    · exact ⟨_, _, _, rfl⟩
    · exact ⟨_, _, _, rfl⟩
  · exact ⟨_, _, _, rfl⟩

/-- Ending an order changes the engine, the queue, the notice, the reply memory and the shed report alone. -/
theorem finishOrder_frame (o : QueuedOrder) (final : Record) (s : State) :
    ∃ e q n m b, finishOrder o final s =
      { s with
        orders := { s.orders with engine := e, queue := q, notice := n, memory := m },
        events := { s.events with shedArmed := b } } := by
  unfold finishOrder
  dsimp only
  obtain ⟨e, q, b, h⟩ := takeNext_frame
    (s.setOrders { s.orders with
      memory := if o.tag = 0 then s.orders.memory
        else put s.orders.memory o.trunk (some { tag := o.tag, code := o.code, record := final }),
      engine := .idle, notice := none })
  exact ⟨e, q, none, _, b, by rw [h]; rfl⟩

/-- Placing replies changes links besides what ending an order changes. -/
theorem placeReplies_frame (o : QueuedOrder) (final : Record) (later rs : List Record) :
    ∀ s, ∃ ls e q n m b, placeReplies o final later rs s =
      { s with
        links := ls, orders := { s.orders with engine := e, queue := q, notice := n, memory := m },
        events := { s.events with shedArmed := b } } := by
  induction rs with
  | nil =>
    intro s
    unfold placeReplies
    split
    · obtain ⟨e, q, n, m, b, h⟩ := finishOrder_frame o final s
      exact ⟨s.links, e, q, n, m, b, h⟩
    · exact ⟨_, _, _, _, _, _, rfl⟩
  | cons r rest ih =>
    intro s
    unfold placeReplies
    split
    · obtain ⟨ls, e, q, n, m, b, h⟩ :=
        ih (s.setLink o.replyLink ((s.link o.replyLink).pushControl r))
      exact ⟨ls, e, q, n, m, b, by rw [h]; rfl⟩
    · exact ih s
    · exact ⟨_, _, _, _, _, _, rfl⟩

/-- Answering an order changes links, the engine, the queue, the notice, the reply memory and the shed report
alone. -/
theorem answer_frame (o : QueuedOrder) (reply : Reply) (s : State) :
    ∃ ls e q n m b, answer o reply s =
      { s with
        links := ls, orders := { s.orders with engine := e, queue := q, notice := n, memory := m },
        events := { s.events with shedArmed := b } } :=
  placeReplies_frame _ _ _ _ _

/-- Placing the first records of a list changes what answering an order changes. -/
theorem sendUpTo_frame (n : Nat) (o : QueuedOrder) (rs : List Record) (s : State) :
    ∃ ls e q m k b, sendUpTo n o rs s =
      { s with
        links := ls, orders := { s.orders with engine := e, queue := q, notice := m, memory := k },
        events := { s.events with shedArmed := b } } :=
  placeReplies_frame _ _ _ _ _

/-- Placing the first records of a reply is placing all of them when it has no more. -/
theorem answerUpTo_all {n : Nat} (o : QueuedOrder) {reply : Reply} (h : (replyRecords o reply).length ≤ n)
    (s : State) : answerUpTo n o reply s = answer o reply s := by
  unfold answerUpTo sendUpTo answer sendRecords
  rw [List.drop_eq_nil_of_le h, List.take_of_length_le h]

/-- A handed order frame changes counters, links, the event unit, the engine and the queue alone. -/
theorem handOrder_frame (o : QueuedOrder) (s : State) :
    ∃ xs ls ev e q, handOrder o s =
      { s with
        receivers := xs, links := ls, events := ev, orders := { s.orders with engine := e, queue := q } } := by
  unfold handOrder
  split
  · dsimp only
    split
    · exact ⟨_, _, _, _, _, rfl⟩
    · unfold roomTest
      split
      · obtain ⟨e, q, b, h⟩ := takeNext_frame
          ((armRefusal o.trunk s).setOrders
            { (armRefusal o.trunk s).orders with queue := (armRefusal o.trunk s).orders.queue ++ [o] })
        exact ⟨_, _, _, e, q, by rw [h]; rfl⟩
      · obtain ⟨ls, n, b, h⟩ := postOrdersShed_frame o.trunk o.header
          ((armRefusal o.trunk s).onCounters o.trunk (fun c => { c with shed := bump c.shed }))
        exact ⟨_, ls, _, _, _, by rw [h]; rfl⟩
  · obtain ⟨ls, n, b, h⟩ := postOrderRefused_frame o.trunk o.header
      (s.onCounters o.trunk (fun c => { c with refused := bump c.refused }))
    exact ⟨_, ls, _, _, _, by rw [h]; rfl⟩

/-! ### Carrying out -/

/-- An order that is to be carried out begins with its own part. -/
theorem takeUp_carries {code : Nat} {act : QueuedOrder → State → State} {o : QueuedOrder} {s : State}
    (h : s.Carries code o) : takeUp code act s = act o s := by
  obtain ⟨he, hc, hs, hr, hp⟩ := h
  have hf : frameFailure o = none := by
    unfold frameFailure
    rw [hr, hc, hp]
    rfl
  unfold takeUp
  rw [he]
  simp only [hc, hs, hf, if_true]

/-- Everything that beginning an order can do: nothing; an answer to the order in execution in place of its own
part; or its own part. -/
theorem takeUp_cases (code : Nat) (act : QueuedOrder → State → State) (s : State) :
    takeUp code act s = s ∨
    (∃ o rs, s.orders.engine = .executing o ∧ takeUp code act s = sendRecords o rs s) ∨
    ∃ o, s.Carries code o ∧ takeUp code act s = act o s := by
  cases he : s.orders.engine with
  | idle => left; unfold takeUp; rw [he]
  | settling o left => left; unfold takeUp; rw [he]
  | restarting o left => left; unfold takeUp; rw [he]
  | placing o next rest => left; unfold takeUp; rw [he]
  | replying o held rest => left; unfold takeUp; rw [he]
  | executing o =>
    by_cases hc : o.code = code
    · cases hs : storedReply o s with
      | some record =>
        right; left
        exact ⟨o, [record], rfl, by unfold takeUp; rw [he]; simp only [hc, hs, if_true]⟩
      | none =>
        cases hf : frameFailure o with
        | some reply =>
          right; left
          exact ⟨o, replyRecords o reply, rfl, by unfold takeUp; rw [he]; simp only [hc, hs, hf, if_true]; rfl⟩
        | none =>
          right; right
          have hb : o.reservedSet = false ∧ permittedCount code o.bodyCount = true := by
            unfold frameFailure at hf
            split at hf
            · cases hf
            next h =>
              split at hf
              next h' => exact ⟨by simpa using h, by rw [← hc]; exact h'⟩
              · cases hf
          have hk : s.Carries code o := ⟨he, hc, hs, hb.1, hb.2⟩
          exact ⟨o, hk, takeUp_carries hk⟩
    · left; unfold takeUp; rw [he]; simp only [hc, if_false]

/-- An order that is to be carried out is: its effects, and then its reply. -/
theorem carryOutBy_carries {send : QueuedOrder → Reply → State → State} {code : Nat}
    {perform : QueuedOrder → State → State × Reply} {o : QueuedOrder} {s : State} (h : s.Carries code o) :
    carryOutBy send code perform s = send o (perform o s).2 (perform o s).1.draw :=
  takeUp_carries h

/-- An order of one record that is to be carried out is, and is answered. -/
theorem carryOut_carries {code : Nat} {perform : QueuedOrder → State → State × Reply} {o : QueuedOrder}
    {s : State} (h : s.Carries code o) :
    carryOut code perform s = answer o (perform o s).2 (perform o s).1.draw :=
  carryOutBy_carries h

/-- An order of several records that is to be carried out is, and is answered with the first of them. -/
theorem carryOutUpTo_carries {n code : Nat} {perform : QueuedOrder → State → State × Reply} {o : QueuedOrder}
    {s : State} (h : s.Carries code o) :
    carryOutUpTo n code perform s = answerUpTo n o (perform o s).2 (perform o s).1.draw := by
  unfold carryOutUpTo
  rw [h.1]
  exact carryOutBy_carries h

/-- Everything that carrying out can do: nothing; an answer to the order in execution in place of its effects;
or its effects and then its reply. -/
theorem carryOutBy_cases (send : QueuedOrder → Reply → State → State) (code : Nat)
    (perform : QueuedOrder → State → State × Reply) (s : State) :
    carryOutBy send code perform s = s ∨
    (∃ o rs, s.orders.engine = .executing o ∧ carryOutBy send code perform s = sendRecords o rs s) ∨
    ∃ o, s.Carries code o ∧ carryOutBy send code perform s = send o (perform o s).2 (perform o s).1.draw :=
  takeUp_cases _ _ s

/-- Everything that carrying out an order of one record can do. -/
theorem carryOut_cases (code : Nat) (perform : QueuedOrder → State → State × Reply) (s : State) :
    carryOut code perform s = s ∨
    (∃ o rs, s.orders.engine = .executing o ∧ carryOut code perform s = sendRecords o rs s) ∨
    ∃ o, s.Carries code o ∧ carryOut code perform s = answer o (perform o s).2 (perform o s).1.draw :=
  carryOutBy_cases answer code perform s

/-- Everything that carrying out an order of several records can do: nothing; placing records of an order in
execution; or the order's effects and then the first records of its reply. -/
theorem carryOutUpTo_cases (n code : Nat) (perform : QueuedOrder → State → State × Reply) (s : State) :
    carryOutUpTo n code perform s = s ∨
    (∃ o final later rs, s.orders.engine.order = some o ∧
      carryOutUpTo n code perform s = placeReplies o final later rs s) ∨
    ∃ o, s.Carries code o ∧
      carryOutUpTo n code perform s = answerUpTo n o (perform o s).2 (perform o s).1.draw := by
  unfold carryOutUpTo
  split
  next o next rest he =>
    split
    · exact .inr (.inl ⟨o, _, _, _, by rw [he]; rfl, rfl⟩)
    · exact .inl rfl
  · exact .inl rfl
  next o he =>
    obtain h | ⟨o', rs, ho, h⟩ | h := carryOutBy_cases (answerUpTo n) code perform s
    · exact .inl h
    · exact .inr (.inl ⟨o', _, _, _, by rw [ho]; rfl, h⟩)
    · exact .inr (.inr h)
  · exact .inl rfl
  · exact .inl rfl
  · exact .inl rfl

/-! ### Orders that begin with the switch control's part -/

/-- Fewer steps than there are: the switch control has handled the first formats, and the engine holds the
others. -/
theorem runSettling_part (cause : SwitchCause) (finish : QueuedOrder → State → State × Reply) (o : QueuedOrder) :
    ∀ (n : Nat) (left : List Slot) (s : State), n ≤ left.length →
      runSettling cause finish o n left s =
        ((left.take n).foldl (settleFormat cause) s).setEngine (.settling o (left.drop n))
  | 0, _, _, _ => rfl
  | n + 1, [], _, h => by simp at h
  | n + 1, f :: rest, s, h => by
    rw [runSettling, runSettling_part cause finish o n rest _ (by simpa using h)]
    rfl

/-- All the steps: the switch control has handled every format, and the last effect and the reply have
followed. -/
theorem runSettling_all (cause : SwitchCause) (finish : QueuedOrder → State → State × Reply) (o : QueuedOrder) :
    ∀ (n : Nat) (left : List Slot) (s u : State), left.length < n → u = left.foldl (settleFormat cause) s →
      runSettling cause finish o n left s = answer o (finish o u).2 (finish o u).1.draw
  | 0, _, _, _, h, _ => by simp at h
  | n + 1, [], s, _, _, hu => by subst hu; rw [runSettling]
  | n + 1, f :: rest, s, u, h, hu => by
    rw [runSettling]
    exact runSettling_all cause finish o n rest _ u (by simpa using h) hu

/-- Everything that the next steps of such an order can do: some of the formats left are handled, and the rest
held; or all are, and the last effect and the reply follow. -/
theorem runSettling_cases (cause : SwitchCause) (finish : QueuedOrder → State → State × Reply) (o : QueuedOrder)
    (n : Nat) (left : List Slot) (s : State) :
    (∃ u, u = (left.take n).foldl (settleFormat cause) s ∧
      runSettling cause finish o n left s = u.setEngine (.settling o (left.drop n))) ∨
    ∃ u, u = left.foldl (settleFormat cause) s ∧
      runSettling cause finish o n left s = answer o (finish o u).2 (finish o u).1.draw := by
  by_cases h : n ≤ left.length
  · exact .inl ⟨_, rfl, runSettling_part cause finish o n left s h⟩
  · exact .inr ⟨_, rfl, runSettling_all cause finish o n left s _ (by omega) rfl⟩

/-- The formats of a list in format slot order. -/
abbrev inSlotOrder (fs : List Slot) : List Slot := slotList.filter (fun f => fs.contains f)

/-- Such an order that is to be carried out is checked, and then refused or begun. -/
theorem carryOutSettling_carries {n code : Nat} {cause : SwitchCause}
    {check : QueuedOrder → State → Except Reply (List Slot)} {finish : QueuedOrder → State → State × Reply}
    {o : QueuedOrder} {s : State} (h : s.Carries code o) :
    (∀ reply, check o s = .error reply →
      carryOutSettling n code cause check finish s = answer o reply s.draw) ∧
    ∀ fs, check o s = .ok fs →
      carryOutSettling n code cause check finish s = runSettling cause finish o n (inSlotOrder fs) s := by
  unfold carryOutSettling
  rw [h.1]
  dsimp only
  rw [takeUp_carries h]
  exact ⟨fun reply hr => by rw [hr], fun fs hr => by rw [hr]⟩

/-- Everything that carrying out such an order can do: nothing; an answer to the order in execution; or the next
of its steps, from its beginning or from where they stand. -/
theorem carryOutSettling_cases (n code : Nat) (cause : SwitchCause)
    (check : QueuedOrder → State → Except Reply (List Slot)) (finish : QueuedOrder → State → State × Reply)
    (s : State) :
    carryOutSettling n code cause check finish s = s ∨
    (∃ o rs, s.orders.engine = .executing o ∧ carryOutSettling n code cause check finish s = sendRecords o rs s) ∨
    (∃ o rs, s.Carries code o ∧ carryOutSettling n code cause check finish s = sendRecords o rs s.draw) ∨
    (∃ o fs, s.Carries code o ∧ check o s = .ok fs ∧
      carryOutSettling n code cause check finish s = runSettling cause finish o n (inSlotOrder fs) s) ∨
    ∃ o left, s.orders.engine = .settling o left ∧ o.code = code ∧
      carryOutSettling n code cause check finish s = runSettling cause finish o n left s := by
  unfold carryOutSettling
  split
  · obtain h | ⟨o, rs, ho, h⟩ | ⟨o, ho, h⟩ := takeUp_cases code (fun o u =>
      match check o u with
      | .error reply => answer o reply u.draw
      | .ok fs => runSettling cause finish o n (inSlotOrder fs) u) s
    · exact .inl h
    · exact .inr (.inl ⟨o, rs, ho, h⟩)
    · split at h
      · exact .inr (.inr (.inl ⟨o, _, ho, h⟩))
      next fs hc => exact .inr (.inr (.inr (.inl ⟨o, fs, ho, hc, h⟩)))
  next o left he =>
    split
    next hc => exact .inr (.inr (.inr (.inr ⟨o, left, he, hc, rfl⟩)))
    · exact .inl rfl
  · exact .inl rfl
  · exact .inl rfl
  · exact .inl rfl
  · exact .inl rfl

/-- SET_TRUNK goes on exactly with its words in range and with no row to which the new profile gives no tag. -/
theorem setTrunkTarget_ok {o : QueuedOrder} {s : State} {t : Trunk} :
    setTrunkTarget o s = .ok t ↔
      rangeFailure (setTrunkRanges o) = none ∧ trunkOf (o.arg 0) = some t ∧
        untaggedFailure t (profileOf o) s = none := by
  unfold setTrunkTarget
  constructor
  · intro h
    split at h <;> try contradiction
    next t' hr ht =>
    split at h
    · contradiction
    next hu =>
    obtain rfl := Except.ok.inj h
    exact ⟨hr, ht, hu⟩
  · rintro ⟨hr, ht, hu⟩
    rw [hr, ht]
    simp only [hu]

/-- The last effect of SET_TRUNK is the reinitialization of the trunk it names, or nothing. -/
theorem setTrunkFinish_cases (arrived : Nat) (o : QueuedOrder) (s : State) :
    (setTrunkFinish arrived o s).1 = s ∨
    ∃ t, setTrunkTarget o s = .ok t ∧
      (setTrunkFinish arrived o s).1 = reinitTrunk t (profileOf o) arrived s := by
  unfold setTrunkFinish
  split
  · exact .inl rfl
  next t ht => exact .inr ⟨t, ht, rfl⟩

/-- UNBIND_SOURCE goes on exactly with a trunk word and a row word that name an occupied row. -/
theorem unbindTarget_ok {o : QueuedOrder} {s : State} {t : Trunk} {r : RowIx} {x : Row} :
    unbindTarget o s = .ok (t, r, x) ↔
      trunkOf (o.arg 0) = some t ∧ rowOf (o.arg 1) = some r ∧ s.row t r = some x := by
  unfold unbindTarget
  constructor
  · intro h
    split at h <;> try contradiction
    next t' r' ht hr =>
    split at h
    · contradiction
    next y hy =>
    obtain ⟨rfl, rfl, rfl⟩ := by simpa using h
    exact ⟨ht, hr, hy⟩
  · rintro ⟨ht, hr, hx⟩
    rw [ht, hr]
    simp only [hx]

/-- The last effect of UNBIND_SOURCE breaks the contexts and makes the row vacant, or is nothing. -/
theorem unbindFinish_cases (o : QueuedOrder) (s : State) :
    (unbindFinish o s).1 = s ∨
    ∃ t r x, unbindTarget o s = .ok (t, r, x) ∧
      (unbindFinish o s).1 = (breakContexts x.format s).setRow t r none := by
  unfold unbindFinish
  split
  · exact .inl rfl
  next t r x hx => exact .inr ⟨t, r, x, hx, rfl⟩

/-! ### The laws of the links -/

/-- Placing replies keeps the laws of the links. -/
theorem placeReplies_linksLawful (o : QueuedOrder) (final : Record) (later rs : List Record) :
    ∀ s : State, s.LinksLawful → (placeReplies o final later rs s).LinksLawful := by
  induction rs with
  | nil =>
    intro s h
    unfold placeReplies
    split
    · obtain ⟨e, q, n, m, b, hf⟩ := finishOrder_frame o final s
      rw [hf]
      exact h
    · exact h
  | cons r rest ih =>
    intro s h
    unfold placeReplies
    split
    next ha => exact ih _ (setLink_linksLawful h _ (LinkTx.pushControl_lawful r (h _).1 (h _).2 ha))
    · exact ih s h
    · exact h

/-- A handed order frame keeps the laws of the links. -/
theorem handOrder_linksLawful {s : State} (h : s.LinksLawful) (o : QueuedOrder) :
    (handOrder o s).LinksLawful := by
  unfold handOrder
  split
  · dsimp only
    split
    · exact h
    · unfold roomTest
      split
      · obtain ⟨e, q, b, hf⟩ := takeNext_frame
          ((armRefusal o.trunk s).setOrders
            { (armRefusal o.trunk s).orders with queue := (armRefusal o.trunk s).orders.queue ++ [o] })
        rw [hf]
        exact h
      · apply postOrdersShed_linksLawful
        exact h
  · apply postOrderRefused_linksLawful
    exact h

/-! ### The laws of the order unit -/

/-- The laws of the order unit without those that tie queue, engine and notice to one another: what the
engine has while it puts an order away. -/
abbrev OrderUnit.Stocked (u : OrderUnit) : Prop :=
  u.accept ≠ 0 ∧ u.queue.length ≤ Config.queueRoom ∧
  u.queue.Pairwise (fun x y => y.tag ≠ 0 → sameTag y x = false) ∧
  (∀ q ∈ u.queue, q.body.length = q.bodyCount) ∧ ∀ t : Trunk, ∀ m ∈ pick u.memory t, m.tag ≠ 0

/-- The order unit's laws hold with its stock alone. -/
theorem State.OrdersLawful.stocked {s : State} (h : s.OrdersLawful) : s.orders.Stocked :=
  ⟨h.1, h.2.1, h.2.2.2.1, h.2.2.2.2.2.1, h.2.2.2.2.2.2.2⟩

/-- An engine that is IDLE takes the next order, and the order unit is lawful. -/
theorem takeNext_lawful {s : State} (h : s.orders.Stocked) (he : s.orders.engine = .idle)
    (hn : s.orders.notice = none) : (takeNext s).OrdersLawful ∧ (takeNext s).waitLawful = true := by
  obtain ⟨h1, h2, h3, h4, h5⟩ := h
  unfold takeNext
  rw [he]
  cases hq : s.orders.queue with
  | nil =>
    refine ⟨⟨h1, h2, fun _ => hq, h3, ?_, h4, ?_, h5⟩, ?_⟩
    · rw [hn]; simp
    · rw [he]; simp [Engine.order]
    · simp [State.waitLawful, he]
  | cons o rest =>
    rw [hq] at h2 h3 h4
    have hx : ∀ ev : EventUnit,
        (State.OrdersLawful { s with
          orders := { s.orders with engine := .executing o, queue := rest }, events := ev }) ∧
        (State.waitLawful { s with
          orders := { s.orders with engine := .executing o, queue := rest }, events := ev }) = true := by
      intro ev
      refine ⟨⟨h1, ?_, ?_, (List.pairwise_cons.mp h3).2, ?_, ?_, ?_, h5⟩, ?_⟩
      · simp only [List.length_cons] at h2; simp only; omega
      · simp
      · rw [show ({ s with
          orders := { s.orders with engine := .executing o, queue := rest }, events := ev } : State).orders.notice
            = none from hn]
        simp
      · intro q hm
        exact h4 q (List.mem_cons_of_mem _ hm)
      · intro q hm
        simp only [Engine.order, Option.mem_def, Option.some.injEq] at hm
        subst hm
        exact h4 o List.mem_cons_self
      · simp [State.waitLawful]
    dsimp only
    split
    · exact hx _
    · exact hx _

/-- Ending an order leaves the order unit lawful. -/
theorem finishOrder_lawful {s : State} (h : s.orders.Stocked) (o : QueuedOrder) (final : Record) :
    (finishOrder o final s).OrdersLawful ∧ (finishOrder o final s).waitLawful = true := by
  unfold finishOrder
  dsimp only
  apply takeNext_lawful
  · obtain ⟨h1, h2, h3, h4, h5⟩ := h
    refine ⟨h1, h2, h3, h4, ?_⟩
    intro t m hm
    simp only [setOrders_orders] at hm
    split at hm
    · exact h5 t m hm
    next ht =>
      rw [pick_put] at hm
      split at hm
      · simp only [Option.mem_def, Option.some.injEq] at hm
        subst hm
        exact ht
      · exact h5 t m hm
  · rfl
  · rfl

/-- Placing replies to an order whose frame is whole leaves the order unit lawful. -/
theorem placeReplies_lawful (o : QueuedOrder) (ho : o.body.length = o.bodyCount) (final : Record)
    (later rs : List Record) : ∀ s : State, s.orders.Stocked →
      (placeReplies o final later rs s).OrdersLawful ∧ (placeReplies o final later rs s).waitLawful = true := by
  induction rs with
  | nil =>
    intro s h
    unfold placeReplies
    split
    · exact finishOrder_lawful h o final
    · obtain ⟨h1, h2, h3, h4, h5⟩ := h
      refine ⟨⟨h1, h2, by simp, h3, by simp, h4, ?_, h5⟩, by simp [State.waitLawful]⟩
      intro q hq
      simp only [setOrders_orders, Engine.order, Option.mem_def, Option.some.injEq] at hq
      subst hq
      exact ho
  | cons r rest ih =>
    intro s h
    unfold placeReplies
    split
    · exact ih _ h
    · exact ih _ h
    next ha =>
      obtain ⟨h1, h2, h3, h4, h5⟩ := h
      refine ⟨⟨h1, h2, by simp, h3, by simp, h4, ?_, h5⟩, ?_⟩
      · intro q hq
        simp only [setOrders_orders, Engine.order, Option.mem_def, Option.some.injEq] at hq
        subst hq
        exact ho
      · unfold LinkTx.controlAnswer at ha
        split at ha
        next hu =>
          split at ha
          · cases ha
          next hn =>
            have hn' : Config.controlLane ≤ (s.link o.replyLink).control.length := by omega
            simp [State.waitLawful, hu, hn']
        · cases ha

end Sys2Proof.Machine
end

