-- ==== Sys2Proof/WellFormed.lean ====
section
/-! DEFINITION. Which terms of `Instr` are events the part can meet in some state. -/

namespace Sys2Proof

/-- An order frame has as many body words as its control word says (R13). -/
def OrderFrame.wellFormed (w : OrderFrame) : Bool := w.body.length == bodyCountOf w.control

/-- What an event's operands must satisfy in every state: each order frame that completes has as many body
words as its control word says (R13); a minor frame has 4 to 1024 words (R1); a READ_BANK command
places at most 64 records and a READ_STATUS command 5 (R152, R170), a ROOM_NOTICE at most 63 after the held
one; and a RESTART command makes at least one and at most all ten of its steps (R174), a SET_TRUNK command at
most five, for the four rows' formats and the receiver, and an UNBIND_SOURCE command two (R71). -/
def Instr.wellFormed : Instr → Bool
  | .powerOnReset _ _ => true
  | .syncCandidateMatch _ _ _ => true
  | .expectedBoundaryComparison _ _ => true
  | .orderMarkerMatch _ _ _ => true
  | .orderFrameReceived t header control body check others =>
    (completedFrames t header control body check others).toList.all (fun f => f.all OrderFrame.wellFormed)
  | .minorFrameDelivered _ words => 4 ≤ words.length && words.length ≤ 1024
  | .waitingFrameProcessed _ => true
  | .linkUp _ => true
  | .linkDown _ => true
  | .creditReturn _ => true
  | .stallTimerExpiry _ => true
  | .recordSent _ => true
  | .roomNotice records => records ≤ 63
  | .unknownOrder => true
  | .echo => true
  | .setTrunk _ steps => 1 ≤ steps && steps ≤ 5
  | .bindSource => true
  | .unbindSource steps => 1 ≤ steps && steps ≤ 2
  | .stageHeader => true
  | .stageSlots => true
  | .stageParams => true
  | .discardStage => true
  | .commit => true
  | .cancelCommit => true
  | .tuneParam => true
  | .readParam => true
  | .readBank records => records ≤ 64
  | .readStatus records => records ≤ 5
  | .clearCounters => true
  | .setOrderAccept => true
  | .setEvents => true
  | .restart steps _ => 1 ≤ steps && steps ≤ 10

/-- How many body words an order frame that is there has. -/
def bodyLength : Option OrderFrame → Nat
  | none => 0
  | some w => w.body.length

/-- How many words an event brings in lists: the bodies of order frames (R13), the words of a minor frame
(R1). -/
def Instr.listWords : Instr → Nat
  | .powerOnReset _ _ => 0
  | .syncCandidateMatch _ _ _ => 0
  | .expectedBoundaryComparison _ _ => 0
  | .orderMarkerMatch _ _ _ => 0
  | .orderFrameReceived t header control body check others =>
    ((completedFrames t header control body check others).toList.map bodyLength).sum
  | .minorFrameDelivered _ words => words.length
  | .waitingFrameProcessed _ => 0
  | .linkUp _ => 0
  | .linkDown _ => 0
  | .creditReturn _ => 0
  | .stallTimerExpiry _ => 0
  | .recordSent _ => 0
  | .roomNotice _ => 0
  | .unknownOrder => 0
  | .echo => 0
  | .setTrunk _ _ => 0
  | .bindSource => 0
  | .unbindSource _ => 0
  | .stageHeader => 0
  | .stageSlots => 0
  | .stageParams => 0
  | .discardStage => 0
  | .commit => 0
  | .cancelCommit => 0
  | .tuneParam => 0
  | .readParam => 0
  | .readBank _ => 0
  | .readStatus _ => 0
  | .clearCounters => 0
  | .setOrderAccept => 0
  | .setEvents => 0
  | .restart _ _ => 0

end Sys2Proof
end

