-- ==== Sys2Proof/Laws/PerInstr.lean ====
section
/-! SUPPORT. Statements made for every command as syntax, one lemma per constructor. -/

namespace Sys2Proof.Laws.OperandsInRange

/-- A well-formed command brings at most 1024 words in a list (R1, R13). -/
def Statement (i : Instr) : Prop := i.wellFormed = true → i.listWords ≤ 1024

theorem powerOnReset (ready0 ready1 : Bool) :
    Statement (.powerOnReset ready0 ready1) :=
  fun _ => Nat.zero_le _

theorem syncCandidateMatch (t : Trunk) (start : Nat) (bits : Window) :
    Statement (.syncCandidateMatch t start bits) :=
  fun _ => Nat.zero_le _

theorem expectedBoundaryComparison (t : Trunk) (bits : Window) :
    Statement (.expectedBoundaryComparison t bits) :=
  fun _ => Nat.zero_le _

theorem orderMarkerMatch (t : Trunk) (start : Nat) (bits : BitVec 32) :
    Statement (.orderMarkerMatch t start bits) :=
  fun _ => Nat.zero_le _

theorem orderFrameReceived (t : Trunk) (header control : Word) (body : List Word) (check : Word)
    (others : Vector (Option OrderFrame) 4) :
    Statement (.orderFrameReceived t header control body check others) := by
  intro h
  simp only [Instr.wellFormed] at h
  simp only [Instr.listWords]
  generalize completedFrames t header control body check others = frames at h ⊢
  have hb : ∀ n ∈ frames.toList.map bodyLength, n ≤ 255 := by
    intro n hn
    obtain ⟨f, hf, rfl⟩ := List.mem_map.mp hn
    have hw := List.all_eq_true.mp h f hf
    cases f with
    | none => exact Nat.zero_le _
    | some w =>
      have hc := (w.control.extractLsb' 0 8).isLt
      simp only [Option.all_some, OrderFrame.wellFormed, beq_iff_eq, bodyCountOf] at hw
      simp only [bodyLength]
      omega
  have hs := List.sum_le_card_nsmul _ _ hb
  simp only [List.length_map, Vector.length_toList, smul_eq_mul] at hs
  omega

theorem minorFrameDelivered (t : Trunk) (words : List Word) :
    Statement (.minorFrameDelivered t words) := by
  intro h
  simp only [Instr.wellFormed, Bool.and_eq_true, decide_eq_true_eq] at h
  exact h.2

theorem waitingFrameProcessed (t : Trunk) :
    Statement (.waitingFrameProcessed t) :=
  fun _ => Nat.zero_le _

theorem linkUp (l : Link) :
    Statement (.linkUp l) :=
  fun _ => Nat.zero_le _

theorem linkDown (l : Link) :
    Statement (.linkDown l) :=
  fun _ => Nat.zero_le _

theorem creditReturn (l : Link) :
    Statement (.creditReturn l) :=
  fun _ => Nat.zero_le _

theorem stallTimerExpiry (l : Link) :
    Statement (.stallTimerExpiry l) :=
  fun _ => Nat.zero_le _

theorem recordSent (l : Link) :
    Statement (.recordSent l) :=
  fun _ => Nat.zero_le _

theorem roomNotice (records : Nat) : Statement (.roomNotice records) := fun _ => Nat.zero_le _

theorem unknownOrder : Statement .unknownOrder := fun _ => Nat.zero_le _

theorem echo : Statement .echo := fun _ => Nat.zero_le _

theorem setTrunk (arrived steps : Nat) : Statement (.setTrunk arrived steps) := fun _ => Nat.zero_le _

theorem bindSource : Statement .bindSource := fun _ => Nat.zero_le _

theorem unbindSource (steps : Nat) : Statement (.unbindSource steps) := fun _ => Nat.zero_le _

theorem stageHeader : Statement .stageHeader := fun _ => Nat.zero_le _

theorem stageSlots : Statement .stageSlots := fun _ => Nat.zero_le _

theorem stageParams : Statement .stageParams := fun _ => Nat.zero_le _

theorem discardStage : Statement .discardStage := fun _ => Nat.zero_le _

theorem commit : Statement .commit := fun _ => Nat.zero_le _

theorem cancelCommit : Statement .cancelCommit := fun _ => Nat.zero_le _

theorem tuneParam : Statement .tuneParam := fun _ => Nat.zero_le _

theorem readParam : Statement .readParam := fun _ => Nat.zero_le _

theorem readBank (records : Nat) : Statement (.readBank records) := fun _ => Nat.zero_le _

theorem readStatus (records : Nat) : Statement (.readStatus records) := fun _ => Nat.zero_le _

theorem clearCounters : Statement .clearCounters := fun _ => Nat.zero_le _

theorem setOrderAccept : Statement .setOrderAccept := fun _ => Nat.zero_le _

theorem setEvents : Statement .setEvents := fun _ => Nat.zero_le _

theorem restart (steps : Nat) (arrived : Vector Nat 4) :
    Statement (.restart steps arrived) :=
  fun _ => Nat.zero_le _

end Sys2Proof.Laws.OperandsInRange
end

