-- ==== Sys2Proof/Laws/Switch.lean ====
section
/-! SUPPORT. What the changes of rows and the switch do, row by row and format slot by format slot, and how a
format slot and its bound row find each other. -/

namespace Sys2Proof.Machine

/-! ### Rows -/

/-- Posting an event leaves the format slots and the trackers. -/
theorem postEvent_formats (k : EventKind) (subject : Word) (cc : Count) (details : List Word) (s : State) :
    (postEvent k subject cc details s).formats = s.formats ∧
      (postEvent k subject cc details s).trackers = s.trackers := by
  obtain ⟨ls, n, e⟩ := postEvent_frame k subject cc details s
  rw [e]
  exact ⟨rfl, rfl⟩

/-- Posting an event leaves every row. -/
theorem postEvent_row (k : EventKind) (subject : Word) (cc : Count) (details : List Word) (s : State) (t : Trunk)
    (r : RowIx) : (postEvent k subject cc details s).row t r = s.row t r := by
  unfold State.row State.tracker
  rw [(postEvent_formats k subject cc details s).2]

/-- Changing a row by `g` changes that row by `g` and no other. -/
theorem changeRow_row (t : Trunk) (r : RowIx) (g : Row → Row) (s : State) (t' : Trunk) (r' : RowIx) :
    (changeRow t r g s).row t' r' = if t = t' ∧ r = r' then (s.row t' r').map g else s.row t' r' := by
  have written : ∀ x, s.row t r = some x →
      (s.setRow t r (some (g x))).row t' r' =
        if t = t' ∧ r = r' then (s.row t' r').map g else s.row t' r' := by
    intro x hx
    rw [setRow_row]
    split
    · next h => obtain ⟨rfl, rfl⟩ := h; rw [hx]; rfl
    · rfl
  unfold changeRow
  split
  · next hn =>
    split
    · next h => obtain ⟨rfl, rfl⟩ := h; rw [hn]; rfl
    · rfl
  · next x hx =>
    split
    · exact written x hx
    · unfold postCycleSync
      rw [postEvent_row]
      exact written x hx

/-- Changing a row leaves the format slots. -/
theorem changeRow_formats (t : Trunk) (r : RowIx) (g : Row → Row) (s : State) :
    (changeRow t r g s).formats = s.formats := by
  unfold changeRow
  split
  · rfl
  · split
    · rfl
    · unfold postCycleSync
      rw [(postEvent_formats _ _ _ _ _).1]
      rfl

/-- Setting fields of a row changes that row and no other. -/
theorem onRow_row (t : Trunk) (r : RowIx) (g : Row → Row) (s : State) (t' : Trunk) (r' : RowIx) :
    (s.onRow t r g).row t' r' = if t = t' ∧ r = r' then (s.row t' r').map g else s.row t' r' := by
  unfold State.onRow
  split
  · next hn =>
    split
    · next h => obtain ⟨rfl, rfl⟩ := h; rw [hn]; rfl
    · rfl
  · next x hx =>
    rw [setRow_row]
    split
    · next h => obtain ⟨rfl, rfl⟩ := h; rw [hx]; rfl
    · rfl

/-- A counted break changes the broken count of one row and no other row. -/
theorem breakCounted_row (f : Slot) (t : Trunk) (r : RowIx) (s : State) (t' : Trunk) (r' : RowIx) :
    (breakCounted f t r s).row t' r' =
      if t = t' ∧ r = r' then
        (s.row t' r').map
          (fun x => { x with broken := addTally x.broken (partialCount (s.contextsOf f)) })
      else s.row t' r' := by
  unfold breakCounted breakContexts
  rw [setContexts_row, onRow_row]

/-! ### Bindings -/

/-- Which row a format slot is bound to depends on what the rows are bound to alone. -/
theorem boundRow_of_keys {s u : State} (h : ∀ t r, (u.row t r).map Row.key = (s.row t r).map Row.key) (f : Slot) :
    u.boundRow f = s.boundRow f := by
  unfold State.boundRow
  congr 1
  funext p
  have hp := h p.1 p.2
  cases hu : u.row p.1 p.2 <;> cases hs : s.row p.1 p.2 <;> rw [hu, hs] at hp <;> simp at hp
  · unfold boundTo
    unfold Row.key at hp
    simp at hp
    dsimp only
    rw [hp.1]

/-- The bound row of a format slot is occupied and bound to it. -/
theorem boundRow_row {s : State} {f : Slot} {t : Trunk} {r : RowIx} (h : s.boundRow f = some (t, r)) :
    ∃ x, s.row t r = some x ∧ x.format = f := by
  have hb := List.find?_some h
  dsimp only at hb
  cases hx : s.row t r with
  | none => rw [hx] at hb; simp [boundTo] at hb
  | some x => rw [hx] at hb; exact ⟨x, rfl, by simpa [boundTo] using hb⟩

/-- Every row is looked at. -/
theorem mem_allRows (t : Trunk) (r : RowIx) : (t, r) ∈ allRows := by
  revert t r
  decide

/-- With rows and formats bound one to one, an occupied row is the bound row of its format slot. -/
theorem boundRow_of_row {s : State} (hb : s.BindingsLawful) {t : Trunk} {r : RowIx} {x : Row}
    (h : s.row t r = some x) : s.boundRow x.format = some (t, r) := by
  cases hf : s.boundRow x.format with
  | none =>
    unfold State.boundRow at hf
    rw [List.find?_eq_none] at hf
    have hn := hf (t, r) (mem_allRows t r)
    dsimp only at hn
    rw [h] at hn
    simp [boundTo] at hn
  | some p =>
    obtain ⟨t', r'⟩ := p
    obtain ⟨y, hy, hyf⟩ := boundRow_row hf
    obtain ⟨rfl, rfl⟩ := hb.1 t' t r' r y hy x h hyf
    rfl

/-- What keeps bindings, tags and tag positions keeps the laws of the bindings. -/
theorem Keeps.bindings {s u : State} (k : Keeps s u) (h : s.BindingsLawful) : u.BindingsLawful := by
  have back : ∀ t r y, u.row t r = some y → ∃ x, s.row t r = some x ∧ y.format = x.format ∧ y.tag = x.tag := by
    intro t r y hy
    have hk := k.keys t r
    rw [hy] at hk
    cases hx : s.row t r with
    | none => rw [hx] at hk; simp at hk
    | some x => rw [hx] at hk; simp [Row.key] at hk; exact ⟨x, rfl, hk⟩
  refine ⟨?_, ?_, ?_⟩
  · intro t t' r r' y hy y' hy' hf
    obtain ⟨x, hx, e, _⟩ := back _ _ _ hy
    obtain ⟨x', hx', e', _⟩ := back _ _ _ hy'
    exact h.1 t t' r r' x hx x' hx' (by rw [← e, ← e']; exact hf)
  · intro t r ht hr
    obtain ⟨c, hc⟩ := k.receivers t
    rw [hc] at ht
    have hk := k.keys t r
    rw [h.2.1 t r ht hr] at hk
    simpa using hk
  · intro t r r' y hy y' hy' v hv hv'
    obtain ⟨x, hx, _, e⟩ := back _ _ _ hy
    obtain ⟨x', hx', _, e'⟩ := back _ _ _ hy'
    exact h.2.2 t r r' x hx x' hx' v (by rw [← e]; exact hv) (by rw [← e']; exact hv')

/-- What keeps the banks' contents keeps the laws of the store. -/
theorem Keeps.store {s u : State} (k : Keeps s u) (h : s.StoreLawful) : u.StoreLawful := by
  intro f
  rw [(k.banks f).1, (k.banks f).2]
  exact h f

/-! ### The switch -/

/-- A switch changes the format slots at its own alone. -/
theorem switchFormat_formats (f : Slot) (cause : SwitchCause) (s : State) :
    (switchFormat f cause s).formats = put s.formats f ((s.format f).switched cause) := by
  have core : (switchCore f cause s).formats = put s.formats f ((s.format f).switched cause) := by
    unfold switchCore
    obtain ⟨ts, e⟩ := countDiscarded_frame f (s.setFormat f ((s.format f).switched cause))
    rw [e]
    rfl
  have bound : ∀ z, (adjustBound f z).formats = z.formats := by
    intro z
    unfold adjustBound
    split
    · rfl
    · exact changeRow_formats _ _ _ _
  rw [switchFormat_eq, bound]
  unfold postBankSwitch
  rw [(postEvent_formats _ _ _ _ _).1, core]

/-- The format slots after a switch. -/
theorem switchFormat_format (f : Slot) (cause : SwitchCause) (s : State) (g : Slot) :
    (switchFormat f cause s).format g = if f = g then (s.format f).switched cause else s.format g := by
  show pick _ _ = _
  rw [switchFormat_formats, pick_put]
  rfl

/-- The rows after a switch: the bound row with its discarded contexts counted and its cycle state adjusted to
the new active bank, every other row as it was. -/
theorem switchFormat_row (f : Slot) (cause : SwitchCause) (s : State) (t : Trunk) (r : RowIx) :
    (switchFormat f cause s).row t r =
      if s.boundRow f = some (t, r) then
        (s.row t r).map
          (fun x => adjustRow (s.format f).standbyBank
            { x with broken := addTally x.broken (partialCount (s.contextsOf f)) })
      else s.row t r := by
  have hk : Keeps s (postBankSwitch f cause (switchCore f cause s)) :=
    (switchCore_keeps f cause s).trans (postEvent_keeps _ _ _ _ _)
  have hbr : (postBankSwitch f cause (switchCore f cause s)).boundRow f = s.boundRow f :=
    boundRow_of_keys hk.keys f
  have hrow : ∀ t r, (postBankSwitch f cause (switchCore f cause s)).row t r =
      if s.boundRow f = some (t, r) then
        (s.row t r).map (fun x => { x with broken := addTally x.broken (partialCount (s.contextsOf f)) })
      else s.row t r := by
    intro t r
    unfold postBankSwitch
    rw [postEvent_row]
    unfold switchCore
    rw [setRuntimes_row, setContexts_row]
    unfold countDiscarded
    have same : (s.setFormat f ((s.format f).switched cause)).boundRow f = s.boundRow f := rfl
    rw [same]
    cases hb : s.boundRow f with
    | none => simp
    | some p =>
      obtain ⟨t', r'⟩ := p
      dsimp only
      rw [onRow_row]
      simp only [Option.some.injEq, Prod.mk.injEq]
      rfl
  have hact : (postBankSwitch f cause (switchCore f cause s)).activeBank f = (s.format f).standbyBank := by
    unfold State.activeBank State.format
    have hf : (postBankSwitch f cause (switchCore f cause s)).formats =
        put s.formats f ((s.format f).switched cause) := by
      unfold postBankSwitch
      rw [(postEvent_formats _ _ _ _ _).1]
      unfold switchCore
      obtain ⟨ts, e⟩ := countDiscarded_frame f (s.setFormat f ((s.format f).switched cause))
      rw [e]
      rfl
    rw [hf, pick_put_same]
    exact FormatSlot.switched_activeBank _ _
  rw [switchFormat_eq]
  unfold adjustBound
  rw [hbr]
  cases hb : s.boundRow f with
  | none => dsimp only; rw [hrow, hb]; simp
  | some p =>
    obtain ⟨t', r'⟩ := p
    dsimp only
    rw [changeRow_row, hact]
    simp only [hrow, hb, Option.some.injEq, Prod.mk.injEq]
    split
    · rw [Option.map_map]; rfl
    · rfl

/-- An adjusted row is not UNFORMATTED, keeps its format slot, and stays locked if it was. -/
theorem adjustRow_cycle (b : Bank) (x : Row) :
    (adjustRow b x).cycle ≠ .unformatted ∧ (adjustRow b x).format = x.format ∧
      (x.cycle = .locked → (adjustRow b x).cycle = .locked) := by
  unfold adjustRow
  split
  · next h => exact ⟨by simp, rfl, by rw [h]; simp⟩
  · next h => exact ⟨by simp, rfl, by rw [h]; simp⟩
  · next h => exact ⟨by rw [h]; simp, rfl, id⟩
  · next h =>
    split
    · exact ⟨by rw [h]; simp, rfl, id⟩
    · split
      · exact ⟨by simp [h], rfl, id⟩
      · exact ⟨by rw [h]; simp, rfl, id⟩

/-- A format slot is bound to a locked row when its bound row is in CYCLE_LOCKED. -/
theorem boundLocked_iff {s : State} {f : Slot} :
    boundLocked f s = true ↔ ∃ t r x, s.boundRow f = some (t, r) ∧ s.row t r = some x ∧ x.cycle = .locked := by
  unfold boundLocked
  constructor
  · intro h
    split at h
    · cases h
    · next t r hb =>
      split at h
      · cases h
      · next x hx => exact ⟨t, r, x, hb, hx, by simpa using h⟩
  · rintro ⟨t, r, x, hb, hx, hc⟩
    rw [hb]
    dsimp only
    rw [hx]
    simpa using hc

/-- A switch of any format slot leaves a format slot that is bound to a locked row bound to a locked row. -/
theorem switchFormat_locked (f : Slot) (cause : SwitchCause) (s : State) (g : Slot) (h : boundLocked g s = true) :
    boundLocked g (switchFormat f cause s) = true := by
  obtain ⟨t, r, x, hb, hx, hc⟩ := boundLocked_iff.mp h
  have kept : (switchFormat f cause s).boundRow g = some (t, r) := by
    rw [boundRow_of_keys (switchFormat_keeps f cause s).keys]
    exact hb
  refine boundLocked_iff.mpr ?_
  by_cases e : s.boundRow f = some (t, r)
  · refine ⟨t, r, adjustRow (s.format f).standbyBank
      { x with broken := addTally x.broken (partialCount (s.contextsOf f)) }, kept, ?_, ?_⟩
    · rw [switchFormat_row, if_pos e, hx]
      rfl
    · exact (adjustRow_cycle _ _).2.2 hc
  · exact ⟨t, r, x, kept, by rw [switchFormat_row, if_neg e, hx], hc⟩

end Sys2Proof.Machine
end

