-- ==== Sys2Proof/Tests/Slice0.lean ====
section
/-! SUPPORT. Tests of the model: ill-formed commands, the manual's worked examples, one or two steps of each
command, and for each obligation a state that meets its hypotheses. -/

namespace Sys2Proof.Tests

/- The tests are elaborated one after another: in parallel each waits in a thread of its own for the kernel, and
the package as one text then asks for more threads than its memory limit gives. -/
set_option Elab.async false

open Sys2Proof.Machine

/-! ### Well-formedness: each check refuses a term -/

theorem test_wf_order_frame :
    (Instr.orderFrameReceived 0 0x0007 0x0002 [1, 2] 0).wellFormed = true ∧
    (Instr.orderFrameReceived 0 0x0007 0x0002 [1] 0).wellFormed = false ∧
    (Instr.orderFrameReceived 0 0x0007 0x0002 [1, 2] 0
      #v[none, some { header := 0, control := 1, body := [], check := 0 }, none, none]).wellFormed = false := by
  decide

theorem test_wf_minor_frame :
    (Instr.minorFrameDelivered 0 [1, 2, 3, 4]).wellFormed = true ∧
    (Instr.minorFrameDelivered 0 [1, 2, 3]).wellFormed = false ∧
    (Instr.minorFrameDelivered 0 (List.replicate 1025 0)).wellFormed = false := by decide +kernel

/-- No bit has arrived on any trunk. -/
def bits0 : Vector Nat 4 := Vector.replicate 4 0

theorem test_wf_restart :
    (Instr.restart 1 bits0).wellFormed = true ∧ (Instr.restart 10 bits0).wellFormed = true ∧
    (Instr.restart 0 bits0).wellFormed = false ∧ (Instr.restart 11 bits0).wellFormed = false := by decide

theorem test_wf_order_steps :
    (Instr.setTrunk 0 5).wellFormed = true ∧ (Instr.setTrunk 0 6).wellFormed = false ∧
    (Instr.setTrunk 0 0).wellFormed = false ∧ (Instr.unbindSource 1).wellFormed = true ∧
    (Instr.unbindSource 3).wellFormed = false := by decide

theorem test_wf_reply_records :
    (Instr.readBank 64).wellFormed = true ∧ (Instr.readBank 65).wellFormed = false ∧
    (Instr.readStatus 5).wellFormed = true ∧ (Instr.readStatus 6).wellFormed = false ∧
    (Instr.roomNotice 63).wellFormed = true ∧ (Instr.roomNotice 64).wellFormed = false := by decide

/-! ### Small states -/

/-- The state a command leaves. -/
def after (c : Instr) (s : State) : State :=
  match exec c s with
  | .next u => u
  | .fault _ => s
  | .refused _ => s

/-- A profile of 4 words of 8 bits with the sync pattern 0FAF3H, tolerance 1. -/
def small (verify flywheel tagPos : Nat) : Profile :=
  { enable := true, width := 8, words := 4, syncWords := 2, pattern := 0xFAF3, tolerance := 1,
    verify := verify, flywheel := flywheel, tagPos := tagPos }

/-- A profile of 8-bit words long enough for the manual's format F2. -/
def wide : Profile := { small 2 2 0 with words := 7 }

/-- Stretches that miss, match exactly, and match with one differing bit. -/
def badBits : Window := 0x00F300000000
def goodBits : Window := 0xFAF300000000
def nearBits : Window := 0xFAF200000000

/-- A receiver in a synchronizer state with its boundary at bit 100 where it has one. -/
def rx (p : Profile) (sync : SyncState) (hits misses : Nat) : Receiver :=
  { Receiver.powerOn with
    profile := p, sync := sync, hits := hits, misses := misses, arrived := 100, resume := 80,
    boundary := if sync.atBoundary then some 100 else none }

/-- The part with one receiver set on trunk T0. -/
def withRx (x : Receiver) : State := State.reset.setReceiver 0 x

/-- A link that is UP with credits and records waiting. -/
def upLink (credits : Nat) (control sample : List Record) : LinkTx :=
  { LinkTx.powerOn with state := .up, ready := true, credits := credits, control := control, sample := sample }

/-- An order from T0 without a tag, replying on L0. -/
def order (code : Nat) (body : List Word) : QueuedOrder :=
  { trunk := 0, header := BitVec.ofNat 16 (code * 256), control := BitVec.ofNat 16 body.length, body := body }

/-- An order in execution, with L0 UP. -/
def executing (o : QueuedOrder) (s : State) : State := (s.setLink 0 (upLink 0 [] [])).setEngine (.executing o)

/-- The header of the manual's format F2 (section 3.8). -/
def f2Header : Header := { length := 4, idPos := 3, idBase := 0, verify := 2, missLimit := 2, probation := 2 }

/-- The slot map of the manual's format F2 (section 3.8). -/
def f2Slots : List SlotEntry :=
  [ { pos := 5, interval := 1, offset := 0, param := 100, piece := 0 },
    { pos := 6, interval := 2, offset := 1, param := 101, piece := 0 },
    { pos := 7, interval := 4, offset := 1, param := 102, piece := 0 },
    { pos := 7, interval := 4, offset := 3, param := 102, piece := 1 } ]

/-- The parameter list of the manual's format F2 (section 3.8). -/
def f2Params : List ParamDef :=
  [ { number := 100, pieces := 1, signed := false, link := 0, emission := .every, limits := none },
    { number := 101, pieces := 1, signed := false, link := 0, emission := .nth 4, limits := none },
    { number := 102, pieces := 2, signed := true, link := 1, emission := .change 10,
      limits := some { lo := -500, hi := 500, persistence := 3 } } ]

/-- The content of the manual's format F2. -/
def f2Bank : Bank := { header := some f2Header, slots := f2Slots, params := f2Params }

/-- A COMMITTED format slot that holds F2's content in bank A, with an EMPTY standby. -/
def f2Format : FormatSlot := { FormatSlot.powerOn with bankA := f2Bank }

/-- A format slot whose standby, bank B, holds F2's content in a standby state. -/
def f2Standby (st : Standby) : FormatSlot := { FormatSlot.powerOn with bankB := f2Bank, standby := st }

/-- A format slot with F2's content in both banks. -/
def f2Both (st : Standby) (probation : Option Nat) : FormatSlot :=
  { active := .a, bankA := f2Bank, bankB := f2Bank, standby := st, probation := probation }

/-- A row bound to F0 in a cycle state. -/
def rowIn (cycle : CycleState) (expected check miss current : Nat) : Row :=
  { tag := none, format := 0, cycle := cycle, expected := expected, check := check, miss := miss,
    current := current, cycleCount := 5, losses := 0, mismatches := 0, broken := 0 }

/-- T0 LOCKED on the wide profile, row 0 bound to F0, which has F2's content active with fresh runtimes. -/
def tracked (x : Row) (f : FormatSlot) : State :=
  ((((withRx { rx wide .locked 0 0 with frame := some { start := 100, mark := false } }).setRow 0 0 (some x)).setFormat
    0 f).setContexts 0 (emptyContexts f.activeBank)).setRuntimes 0 (freshRuntimes f.activeBank)

/-- A frame of the wide profile with an ID word and the three words of F2's slots. -/
def frameOf (id a b c : Word) : List Word := [0xFA, 0xF3, id, 0, a, b, c]

/-! ### The manual's examples -/

/-- The row: expected number, check count, miss count, current number, cycle count, ID mismatches. -/
def traced (s : State) : Option (CycleState × List Nat) :=
  (s.row 0 0).map (fun y => (y.cycle, [y.expected, y.check, y.miss, y.current, y.cycleCount.toNat,
    y.mismatches.toNat]))

/-- One frame of the sequence of section 2.3.4 for a row `x`. -/
def oneFrame (x : Row) (id : Word) : Option (CycleState × List Nat) :=
  traced (after (.minorFrameDelivered 0 (frameOf id 1 2 3)) (tracked x f2Format))

theorem test_acquisition_steps_1_to_4 :
    oneFrame (rowIn .search 0 0 0 0) 7 = some (.search, [0, 0, 0, 0, 5, 0]) ∧
    oneFrame (rowIn .search 0 0 0 0) 2 = some (.check, [3, 1, 0, 2, 5, 0]) ∧
    oneFrame (rowIn .check 3 1 0 2) 3 = some (.locked, [0, 0, 0, 3, 6, 0]) ∧
    oneFrame (rowIn .locked 0 0 0 3) 0 = some (.locked, [1, 0, 0, 0, 5, 0]) := by decide +kernel

theorem test_acquisition_steps_5_to_8 :
    oneFrame (rowIn .locked 1 0 0 0) 9 = some (.locked, [2, 0, 1, 1, 5, 1]) ∧
    oneFrame (rowIn .locked 2 0 1 1) 2 = some (.locked, [3, 0, 0, 2, 5, 0]) ∧
    oneFrame (rowIn .locked 3 0 0 2) 0 = some (.locked, [0, 0, 1, 3, 6, 1]) ∧
    oneFrame (rowIn .locked 0 0 1 3) 1 = some (.search, [0, 0, 0, 0, 5, 1]) := by decide +kernel

/-- Two entries at one position. -/
def slotAt (interval offset : Nat) : SlotEntry :=
  { pos := 5, interval := interval, offset := offset, param := 0, piece := 0 }

/-- Table 3-2. -/
theorem test_overlap_table :
    overlaps (slotAt 1 0) (slotAt 8 5) = true ∧ overlaps (slotAt 4 1) (slotAt 6 3) = true ∧
    overlaps (slotAt 4 1) (slotAt 6 2) = false ∧ overlaps (slotAt 4 1) (slotAt 4 3) = false ∧
    overlaps (slotAt 2 0) (slotAt 8 6) = true ∧ overlaps (slotAt 3 2) (slotAt 4 1) = true ∧
    overlaps (slotAt 16 0) (slotAt 16 0) = true := by decide +kernel

/-- Table 5-2. -/
theorem test_sample_value_table :
    readValue true 8 (concatPieces 8 [0xF6]) = -10 ∧ readValue false 8 (concatPieces 8 [0xF6]) = 246 ∧
    readValue true 24 (concatPieces 12 [0xFFF, 0xE70]) = -400 ∧
    readValue false 24 (concatPieces 12 [0x012, 0x345]) = 74565 ∧
    readValue true 30 (concatPieces 10 [0x3FF, 0x000, 0x001]) = -1048575 ∧
    readValue false 64 (concatPieces 16 [1, 0, 0, 0]) = 2 ^ 48 := by decide +kernel

/-- A sample of parameter 102 of F0. -/
def sample102 (v : Int) : Sample :=
  { number := 102, format := 0, trunk := 0, row := 0, value := v, width := 24, signed := true, frame := 3,
    cycleCount := 5, mark := false }

/-- Limit state, candidate, run, last emitted value and sample count of parameter 102. -/
def runtime102 (s : State) : Option (LimitClass × Option LimitClass × List Int) :=
  (s.runtime? 0 102).map (fun rt => (rt.limit, rt.candidate, [rt.run, rt.emitted.getD 9999, rt.samples.toNat]))

/-- The state after a list of samples of parameter 102. -/
def samples102 (vs : List Int) : State :=
  vs.foldl (fun s v => takeSample (sample102 v) s) ((tracked (rowIn .locked 0 0 0 0) f2Format).setLink 1 (upLink 0 [] []))

/-- Section 6.5.1: the runtime after samples 3, 6, 9 and 11, and the seven records placed. -/
theorem test_limits_with_change :
    runtime102 (samples102 [0, 5, 12]) = some (.inside, none, [0, 12, 3]) ∧
    runtime102 (samples102 [0, 5, 12, 600, 610, 30]) = some (.inside, none, [0, 30, 6]) ∧
    runtime102 (samples102 [0, 5, 12, 600, 610, 30, 620, 625, 628]) = some (.high, none, [0, 628, 9]) ∧
    runtime102 (samples102 [0, 5, 12, 600, 610, 30, 620, 625, 628, 635, -20]) =
      some (.high, some .inside, [1, -20, 11]) ∧
    ((samples102 [0, 5, 12, 600, 610, 30, 620, 625, 628, 635, -20]).link 1).sample.length = 7 := by
  decide +kernel

/-- Section 6.5.2: emission under NTH with n = 3, with forcing. -/
theorem test_forcing_under_nth :
    emitStep (.nth 3) true 200 { Runtime.fresh with nth := 2 } =
      ({ Runtime.fresh with nth := 0, emitted := some 200 }, true) ∧
    emitStep (.nth 3) true 70 { Runtime.fresh with nth := 0 } =
      ({ Runtime.fresh with nth := 1, emitted := some 70 }, true) ∧
    emitStep (.nth 3) false 80 { Runtime.fresh with nth := 1 } = ({ Runtime.fresh with nth := 2 }, false) := by
  decide +kernel

/-- A record of four words. -/
def rec4 (n : Nat) : Record := [BitVec.ofNat 16 n, 0, 0, 0]

/-- Table 7-2, starts 8 to 10: the burst rule lets one sample record through. -/
theorem test_start_order :
    (({ upLink 13 [rec4 8, rec4 9, rec4 10] [rec4 1] with burst := 7 } : LinkTx).start).sending = some .control ∧
    (({ upLink 12 [rec4 9, rec4 10] [rec4 1] with burst := 8 } : LinkTx).start) =
      { upLink 11 [rec4 9, rec4 10] [rec4 1] with sending := some .sample, burst := 0 } ∧
    (({ upLink 11 [rec4 9, rec4 10] [rec4 2] with burst := 0 } : LinkTx).start).burst = 1 := by decide +kernel

/-- The check word: values of the CRC with polynomial 1021H and initial value 0FFFFH, computed elsewhere. -/
theorem test_check_word :
    crcOf [0x0007, 0x0002, 0xABCD, 0x1234] = 0xEFF0 ∧ crcOf [0x3F00, 0x0000] = 0x7CC7 ∧
    crcOf [0x3132, 0x3334, 0x3536, 0x3738] = 0xA12B := by decide +kernel

/-- Section 3.8, words of parameter 102 and of its second slot entry, both ways (Tables 11-1 and 11-2). -/
theorem test_staged_words :
    paramDefOf 0x2066 0xE203 0x000A 0xFFFE 0x0C00 0x01F4 = f2Params[2]? ∧
    (f2Params[2]?).map paramDefWords = some [0x2066, 0xE203, 0x000A, 0xFFFE, 0x0C00, 0x01F4] ∧
    slotEntryOf 0x0007 0x0303 0x4066 = f2Slots[3]? ∧
    (f2Slots[3]?).map slotEntryWords = some [0x0007, 0x0303, 0x4066] := by decide +kernel

/-! ### One step of each command -/

theorem test_power_on_reset :
    ((after (.powerOnReset true false) State.reset).link 0).state = .up ∧
    ((after (.powerOnReset true false) State.reset).link 1).state = .down ∧
    (after (.powerOnReset true false) State.reset).freeSlots = 4096 := by decide +kernel

theorem test_candidate_locks :
    ((after (.syncCandidateMatch 0 90 0xFAF2) (withRx (rx (small 1 2 0) .search 0 0))).receiver 0).sync = .locked ∧
    ((after (.syncCandidateMatch 0 90 0x00F3) (withRx (rx (small 1 2 0) .search 0 0))).receiver 0).sync = .search := by
  decide +kernel

/-- T0 in SEARCH for a pattern that is the end of the order marker; the resume point is bit 80. -/
def markerEnd : State := withRx (rx { small 1 2 0 with pattern := 0x1D29 } .search 0 0)

/-- R12: a marker from bit 84 on, complete at the candidate's last bit, is taken in its place whichever command
comes first; a marker that began before the resume point is none. -/
theorem test_marker_before_candidate :
    ((after (.syncCandidateMatch 0 100 0xE4B71D29) markerEnd).receiver 0).sync = .search ∧
    ((after (.orderMarkerMatch 0 84 0xE4B71D29)
      (after (.syncCandidateMatch 0 100 0xE4B71D29) markerEnd)).receiver 0).order = some 84 ∧
    (after (.syncCandidateMatch 0 100 0xE4B71D29) (after (.orderMarkerMatch 0 84 0xE4B71D29) markerEnd)) =
      (after (.orderMarkerMatch 0 84 0xE4B71D29) markerEnd) ∧
    ((after (.syncCandidateMatch 0 95 0xE4B71D29) markerEnd).receiver 0).sync = .locked := by decide +kernel

theorem test_boundary_flywheel_and_loss :
    ((after (.expectedBoundaryComparison 0 badBits) (withRx (rx (small 1 2 0) .locked 0 0))).receiver 0).sync = .flywheel ∧
    ((after (.expectedBoundaryComparison 0 badBits) (withRx (rx (small 1 2 0) .flywheel 0 1))).receiver 0).sync = .search ∧
    ((after (.expectedBoundaryComparison 0 badBits)
      (withRx (rx (small 1 2 0) .flywheel 0 1))).receiver 0).counters.syncLosses = 1 := by decide +kernel

theorem test_marker_and_order_frame :
    ((after (.orderMarkerMatch 0 100 0xE4B71D29) (withRx (rx (small 1 2 0) .off 0 0))).receiver 0).order = some 100 ∧
    (after (.orderFrameReceived 0 0x0007 0x0002 [0xABCD, 0x1234] 0xEFF0)
      (withRx { rx (small 1 2 0) .off 0 0 with order := some 100 })).orders.engine =
        .executing { trunk := 0, header := 0x0007, control := 0x0002, body := [0xABCD, 0x1234] } ∧
    ((after (.orderFrameReceived 0 0x0007 0x0002 [0xABCD, 0x1234] 0xEFF1)
      (withRx { rx (small 1 2 0) .off 0 0 with order := some 100 })).receiver 0).counters.rejected = 1 := by
  decide +kernel

/-- Order frames without body that complete together on T0 and T1, the command named after T1, and the part that
waits for them with seven orders queued. -/
def twoFrames : Instr :=
  .orderFrameReceived 1 0x3F00 0x0000 [] 0x7CC7
    #v[some { header := 0x3F00, control := 0x0000, body := [], check := 0x7CC7 }, none, none, none]
def sevenQueued : State :=
  ((State.reset.setReceiver 0 { Receiver.powerOn with order := some 0 }).setReceiver 1
    { Receiver.powerOn with order := some 0 }).setOrders
      { OrderUnit.powerOn with
        accept := 0x3, queue := List.replicate 7 (order 0x00 []), engine := .executing (order 0x00 []) }

/-- R147: the frame of the lower trunk takes the last place, that of the higher trunk is shed. -/
theorem test_frames_complete_together :
    ((after twoFrames sevenQueued).orders.queue.map (fun o => o.trunk)).drop 6 = [0, 0] ∧
    ((after twoFrames sevenQueued).receiver 0).counters.shed = 0 ∧
    ((after twoFrames sevenQueued).receiver 1).counters.shed = 1 := by decide +kernel

theorem test_minor_frame_routes :
    ((after (.minorFrameDelivered 0 (frameOf 1 0x11 0x22 0x33))
      (tracked (rowIn .locked 1 0 0 0) f2Format)).runtime? 0 100).map (fun rt => rt.latest.map (fun v => v.value)) =
        some (some 0x11) ∧
    (heldContext 102 ((after (.minorFrameDelivered 0 (frameOf 1 0x11 0x22 0x33))
      (tracked (rowIn .locked 1 0 0 0) f2Format)).contextsOf 0)).isSome = true := by decide +kernel

theorem test_waiting_frame :
    ((after (.waitingFrameProcessed 0)
      ((tracked (rowIn .search 0 0 0 0) f2Format).setWaiting 0 [.frame (frameOf 2 0 0 0) false])).row 0 0).map
        (fun x => x.cycle) = some .check := by decide +kernel

theorem test_link_up_and_down :
    ((after (.linkUp 1) State.reset).link 1).state = .up ∧
    ((after (.linkDown 0) (State.reset.setLink 0 (upLink 0 [rec4 1] [rec4 2, rec4 3]))).link 0).counters.sampleFlushed =
      2 := by decide +kernel

theorem test_credit_starts_a_record :
    ((after (.creditReturn 0) (State.reset.setLink 0 (upLink 0 [rec4 1] []))).link 0).sending = some .control ∧
    ((after (.creditReturn 0) (State.reset.setLink 0 (upLink 63 [] []))).link 0).credits = 63 ∧
    ((after (.creditReturn 0)
      (State.reset.setLink 0 { upLink 0 [] [] with state := .stalled })).link 0).state = .up := by decide +kernel

theorem test_stall_timer_expiry :
    ((after (.stallTimerExpiry 0)
      ((State.reset.setLink 0 { upLink 0 [rec4 1] [] with timer := some 1 }).setLink 1 (upLink 0 [] []))).link 1).control =
        [[0x8707, 0x0000, 0, 0, 0, 1, 250]] := by decide +kernel

theorem test_record_sent :
    ((after (.recordSent 0)
      (State.reset.setLink 0 { upLink 1 [rec4 1, rec4 2] [] with sending := some .control })).link 0).control =
        [rec4 2] ∧
    ((after (.recordSent 0)
      (State.reset.setLink 0 { upLink 1 [rec4 1, rec4 2] [] with sending := some .control })).link 0).credits = 0 := by
  decide +kernel

/-- An engine that holds a reply record for the full control lane of L0. -/
def waiting (n : Nat) (notice : Option RoomNotice) : State :=
  (State.reset.setLink 0 (upLink 0 (List.replicate n (rec4 0)) [])).setOrders
    { OrderUnit.powerOn with engine := .replying (order 0x00 []) (rec4 1) [], notice := notice }

theorem test_room_notice :
    (after (.roomNotice 0) (waiting 31 (some .departed))).orders.engine = .idle ∧
    ((after (.roomNotice 0) (waiting 31 (some .departed))).link 0).control.length = 32 ∧
    (after (.roomNotice 0) (waiting 32 (some .departed))).orders = (waiting 32 none).orders := by decide +kernel

/-- R126, R153: the notice of a departure ends the wait though the link then leaves UP: placed again, the held
record is accepted by the link that is UP by then, and discarded by one that is not. -/
theorem test_first_room_notice :
    ((after (.roomNotice 0) (after (.linkUp 0) (after (.linkDown 0) (waiting 32 (some .departed))))).link 0).control =
      [rec4 1] ∧
    (after (.linkDown 0) (waiting 32 (some .departed))).orders.notice = some .departed ∧
    ((after (.roomNotice 0) (after (.linkDown 0) (waiting 32 (some .departed)))).link 0).control = [] ∧
    (after (.roomNotice 0) (after (.linkDown 0) (waiting 32 (some .departed)))).orders.engine = .idle := by
  decide +kernel

/-- The reply records on L0. -/
def replies (c : Instr) (o : QueuedOrder) (s : State) : List Record := ((after c (executing o s)).link 0).control

theorem test_unknown_order :
    (replies .unknownOrder (order 0x3E []) State.reset).map (fun r => r.headD 0) = [0xC410] := by decide +kernel

theorem test_echo :
    replies .echo (order 0x00 [0xBEEF]) State.reset = [[0xC600, 0x0080, 0x0000, 0x0046, 0x0001, 0xBEEF]] := by
  decide +kernel

/-- The body of a SET_TRUNK of T0 with the small profile. -/
def setTrunkBody : List Word := [0, 1, 8, 4, 2, 0, 0, 0xFAF3, 1, 1, 2, 0]

theorem test_set_trunk :
    replies (.setTrunk 0) (order 0x01 setTrunkBody) State.reset =
      [[0x8501, 0x0000, 0, 0, 0x0001], [0xC500, 0x0080, 0x0100, 0, 1]] ∧
    ((after (.setTrunk 0) (executing (order 0x01 setTrunkBody) State.reset)).receiver 0).profile = small 1 2 0 ∧
    replies (.setTrunk 0) (order 0x01 [0, 1, 7, 4, 2, 0, 0, 0xFAF3, 1, 1, 2, 0]) State.reset =
      [[0xC412, 0x0080, 0x0100, 2]] := by decide +kernel

theorem test_bind_source :
    replies .bindSource (order 0x02 [0, 0, 3, 0]) State.reset = [[0xC500, 0x0080, 0x0200, 3, 0]] ∧
    replies .bindSource (order 0x02 [0, 1, 3, 0]) State.reset = [[0xC412, 0x0080, 0x0200, 1]] := by decide +kernel

theorem test_unbind_source :
    (after .unbindSource (executing (order 0x03 [0, 0]) (tracked (rowIn .search 0 0 0 0) f2Format))).row 0 0 = none ∧
    replies .unbindSource (order 0x03 [0, 0]) State.reset = [[0xC433, 0x0080, 0x0300, 0]] := by decide +kernel

/-- An ARMED source of T0 after the switch control's part of an order. -/
def settledBy (c : Instr) (o : QueuedOrder) : State :=
  after c (executing o (tracked (rowIn .locked 2 0 0 1) (f2Both .armed none)))

/-- R97 (2): after the switch of cause UNBIND a frame is routed on the bank switched in, and then the row becomes
vacant. -/
theorem test_frame_between_switch_and_unbinding :
    (settledBy (.unbindSource 1) (order 0x03 [0, 0])).orders.engine = .settling (order 0x03 [0, 0]) [] ∧
    ((settledBy (.unbindSource 1) (order 0x03 [0, 0])).format 0).active = .b ∧
    traced (after (.minorFrameDelivered 0 (frameOf 2 1 2 3)) (settledBy (.unbindSource 1) (order 0x03 [0, 0]))) =
      some (.locked, [3, 0, 0, 2, 5, 0]) ∧
    ((after (.minorFrameDelivered 0 (frameOf 2 1 2 3)) (settledBy (.unbindSource 1) (order 0x03 [0, 0]))).runtime? 0
      100).map (fun rt => rt.samples) = some 1 ∧
    (after .unbindSource (after (.minorFrameDelivered 0 (frameOf 2 1 2 3))
      (settledBy (.unbindSource 1) (order 0x03 [0, 0])))).row 0 0 = none ∧
    (after .unbindSource (after (.minorFrameDelivered 0 (frameOf 2 1 2 3))
      (settledBy (.unbindSource 1) (order 0x03 [0, 0])))).orders.engine = .idle := by decide +kernel

/-- The body of a SET_TRUNK that loads the profile `wide` on T0. -/
def wideBody : List Word := [0, 1, 8, 7, 2, 0, 0, 0xFAF3, 1, 2, 2, 0]

/-- R97 (2) and R35 (4): the same between the switch of cause ORDER and the reinitialization. -/
theorem test_frame_between_switch_and_reinitialization :
    (settledBy (.setTrunk 0 1) (order 0x01 wideBody)).orders.engine = .settling (order 0x01 wideBody) [] ∧
    traced (after (.minorFrameDelivered 0 (frameOf 2 1 2 3)) (settledBy (.setTrunk 0 1) (order 0x01 wideBody))) =
      some (.locked, [3, 0, 0, 2, 5, 0]) ∧
    traced (after (.setTrunk 200) (after (.minorFrameDelivered 0 (frameOf 2 1 2 3))
      (settledBy (.setTrunk 0 1) (order 0x01 wideBody)))) = some (.search, [3, 0, 0, 2, 5, 0]) ∧
    ((after (.setTrunk 200) (settledBy (.setTrunk 0 1) (order 0x01 wideBody))).receiver 0).resume = 200 := by
  decide +kernel

/-- The pool of section 3.8 before step (1). -/
def pool38 (s : State) : State := s.setFree 36 274

/-- Section 3.8, step (1). -/
theorem test_stage_header :
    replies .stageHeader (order 0x10 [2, 4, 3, 0, 2, 2, 2]) (pool38 State.reset) =
      [[0xC800, 0x0080, 0x1000, 0x000B, 0, 0, 36, 274]] ∧
    (after .stageHeader (executing (order 0x10 [2, 4, 3, 0, 2, 2, 2]) (pool38 State.reset))).format 2 =
      { FormatSlot.powerOn with bankB := { header := some f2Header, slots := [], params := [] }, standby := .staging } := by
  decide +kernel

/-- F2 in STAGING with a header and definitions. -/
def staged (params : List ParamDef) : State :=
  State.reset.setFormat 2
    { FormatSlot.powerOn with bankB := { header := some f2Header, slots := [], params := params }, standby := .staging }

/-- Section 3.8, step (2). -/
def stageParamsBody : List Word :=
  [2, 0x2066, 0xE203, 0x000A, 0xFFFE, 0x0C00, 0x01F4, 0x1064, 0, 0, 0, 0, 0, 0x1065, 0x0100, 4, 0, 0, 0]

theorem test_stage_params :
    replies .stageParams (order 0x12 stageParamsBody) ((staged []).setFree 36 274) =
      [[0xC800, 0x0080, 0x1200, 0x000B, 0, 3, 36, 271]] ∧
    ((after .stageParams (executing (order 0x12 stageParamsBody) ((staged []).setFree 36 274))).format 2).bankB.params =
      f2Params := by decide +kernel

/-- Section 3.8, step (3). -/
def stageSlotsBody : List Word :=
  [2, 7, 0x0303, 0x4066, 5, 0x0000, 0x0064, 6, 0x0101, 0x0065, 7, 0x0301, 0x0066]

theorem test_stage_slots :
    replies .stageSlots (order 0x11 stageSlotsBody) ((staged f2Params).setFree 36 271) =
      [[0xC800, 0x0080, 0x1100, 0x000B, 4, 3, 32, 271]] ∧
    ((after .stageSlots (executing (order 0x11 stageSlotsBody) ((staged f2Params).setFree 36 271))).format 2).bankB.slots =
      f2Slots := by decide +kernel

theorem test_stage_slots_no_space :
    replies .stageSlots (order 0x11 stageSlotsBody) ((staged f2Params).setFree 3 271) =
      [[0xC820, 0x0080, 0x1100, 3, 0, 3, 3, 271]] := by decide +kernel

theorem test_discard_stage :
    replies .discardStage (order 0x13 [2]) ((staged f2Params).setFree 36 271) =
      [[0xC800, 0x0080, 0x1300, 0x000B, 0, 0, 36, 274]] := by decide +kernel

theorem test_commit :
    replies .commit (order 0x14 [2]) (State.reset.setFormat 2 (f2Standby .staging)) =
      [[0x8504, 0x0002, 0, 0, 0xB100], [0xC602, 0x0080, 0x1400, 0x000B, 0, 0]] ∧
    (after .commit (executing (order 0x14 [0]) (tracked (rowIn .locked 1 0 0 0) (f2Both .staging none)))).format 0 =
      f2Both .armed none := by decide +kernel

theorem test_cancel_commit :
    replies .cancelCommit (order 0x15 [0]) (tracked (rowIn .locked 1 0 0 0) (f2Both .armed none)) =
      [[0xC400, 0x0080, 0x1500, 0x000B]] ∧
    replies .cancelCommit (order 0x15 [0]) State.reset = [[0xC424, 0x0080, 0x1500, 0x000B]] := by decide +kernel

theorem test_tune_param :
    replies .tuneParam (order 0x20 [0x1065, 0x4200, 7, 0, 0, 0]) (tracked (rowIn .search 0 0 0 0) f2Format) =
      [[0xC500, 0x0080, 0x2000, 0, 0x000A]] ∧
    ((after .tuneParam (executing (order 0x20 [0x1065, 0x4200, 7, 0, 0, 0])
      (tracked (rowIn .search 0 0 0 0) f2Format))).activeBank 0).definition? 101 =
        some { number := 101, pieces := 1, signed := false, link := 1, emission := .change 7, limits := none } := by
  decide +kernel

theorem test_read_param :
    (replies .readParam (order 0x21 [102]) (tracked (rowIn .search 0 0 0 0) f2Format)).map (fun r => r.take 12) =
      [[0xDB00, 0x0080, 0x2100, 102, 0, 0x000A, 16, 1, 0, 1, 0x0300, 2]] ∧
    replies .readParam (order 0x21 [4095]) State.reset = [[0xC434, 0x0080, 0x2100, 4095]] := by decide +kernel

theorem test_read_bank :
    replies (.readBank 64) (order 0x22 [0, 0, 0, 0, 0]) (tracked (rowIn .search 0 0 0 0) f2Format) =
      [[0xCB00, 0x0080, 0x2200, 0x000A, 1, 4, 3, 0, 2, 2, 2]] ∧
    replies (.readBank 64) (order 0x22 [0, 0, 1, 3, 1]) (tracked (rowIn .search 0 0 0 0) f2Format) =
      [[0xC900, 0x0080, 0x2200, 0x000A, 3, 4, 0x0007, 0x0303, 0x4066]] := by decide +kernel

theorem test_read_status :
    replies (.readStatus 5) (order 0x23 [0, 0]) State.reset =
      [[0xD100, 0x0080, 0x2300, 0, 4096, 1024, 0, 0x01FF, 1, 0x000F, 0, 0, 1, 0, 1, 0x0046, 0x0001]] ∧
    (replies (.readStatus 5) (order 0x23 [1, 0]) (tracked (rowIn .search 0 0 0 0) f2Format)).map (fun r => r.length) =
      [34, 21, 21, 21, 24] := by decide +kernel

/-- Section 7.7, steps (2) to (4): two records of a READ_STATUS are placed and flushed, the others discarded. -/
theorem test_reply_in_parts :
    ((replies (.readStatus 2) (order 0x23 [1, 0]) State.reset).map (fun r => r.getD 1 0)) = [0x0000, 0x0001] ∧
    ((after (.linkDown 0) (after (.readStatus 2) (executing (order 0x23 [1, 0]) State.reset))).link 0).counters.controlFlushed =
      2 ∧
    ((after (.readStatus 5) (after (.linkDown 0)
      (after (.readStatus 2) (executing (order 0x23 [1, 0]) State.reset)))).link 0).control = [] ∧
    (after (.readStatus 5) (after (.linkDown 0)
      (after (.readStatus 2) (executing (order 0x23 [1, 0]) State.reset)))).orders.engine = .idle ∧
    ((after (.readStatus 3) (after (.readStatus 2) (executing (order 0x23 [1, 0]) State.reset))).link 0).control.map
      (fun r => r.getD 1 0) = [0x0000, 0x0001, 0x0002, 0x0003, 0x0084] := by decide +kernel

theorem test_clear_counters :
    (after .clearCounters (executing (order 0x24 [0, 0]) State.reset.countLost)).events.lost = 0 ∧
    replies .clearCounters (order 0x24 [2, 2]) State.reset = [[0xC412, 0x0080, 0x2400, 1]] := by decide +kernel

theorem test_set_order_accept :
    replies .setOrderAccept (order 0x30 [0x0005]) State.reset = [[0xC500, 0x0080, 0x3000, 0, 5]] ∧
    replies .setOrderAccept (order 0x30 [0x0004]) State.reset = [[0xC435, 0x0080, 0x3000, 0]] := by decide +kernel

theorem test_set_events :
    (after .setEvents (executing (order 0x31 [1, 0x0100, 1, 255]) State.reset)).events.enabled = 0x100 ∧
    ((after .setEvents (executing (order 0x31 [1, 0x0100, 1, 255]) State.reset)).link 1).stallTime = 255 ∧
    replies .setEvents (order 0x31 [1, 0x0200, 1, 255]) State.reset = [[0xC412, 0x0080, 0x3100, 1]] := by
  decide +kernel

theorem test_restart :
    (after (.restart 10 bits0) (executing (order 0x3F []) (tracked (rowIn .locked 1 0 0 0) (f2Both .armed none)))).format 0 =
      { f2Both .fallback none with active := .b } ∧
    (after (.restart 3 bits0) (executing (order 0x3F []) State.reset)).orders.engine =
      .restarting (order 0x3F []) [.trunk 2, .trunk 3, .evaluation, .link 0, .link 1, .rows, .reply] ∧
    ((after (.restart 10 #v[500, 0, 0, 0])
      (executing (order 0x3F []) (withRx (rx (small 1 2 0) .locked 0 0)))).receiver 0).resume = 500 := by
  decide +kernel

/-- With no command waiting a unit of time passes: a timer at 1 expires (log 7). -/
theorem test_unit_of_time :
    step (State.reset.setLink 0 { upLink 0 [rec4 1] [] with timer := some 2 }) =
      .next (State.reset.setLink 0 { upLink 0 [rec4 1] [] with timer := some 1 }) ∧
    step { State.reset with pending := [.linkUp 0] } = exec (.linkUp 0) State.reset := ⟨rfl, rfl⟩

/-! ### Witnesses: states and operands that meet the hypotheses of the obligations, clause by clause -/

theorem witness_StepRunsFrontCommand :
    ({ State.reset with pending := [.echo, .roomNotice 0] } : State).pending = .echo :: [.roomNotice 0] := rfl

theorem witness_DifferingBitsCountMismatches :
    (small 1 1 0).Lawful ∧ ({ small 1 1 0 with width := 12, words := 5, syncWords := 4 } : Profile).Lawful ∧
    ({ small 1 1 0 with width := 12, words := 5, syncWords := 4 } : Profile).patternBits = 48 ∧
    differingBits (small 1 1 0) badBits = 6 ∧ differingBits (small 1 1 0) nearBits = 1 := by decide +kernel

/-- Clauses: miss; match with V = 1 and with as many differing bits as the tolerance; match with V = 2; a marker
complete at the candidate's last bit, which began at the resume point and one bit before it. -/
theorem witness_CandidateDecided :
    ((withRx (rx (small 1 1 0) .search 0 0)).receiver 0).sync = .search ∧
    ((withRx (rx (small 1 1 0) .search 0 0)).receiver 0).order = none ∧
    (rx (small 1 1 0) .search 0 0).resume ≤ 84 ∧
    (rx (small 1 1 0) .search 0 0).arrived ≤ 84 + (small 1 1 0).patternBits ∧
    (small 1 1 0).tolerance < differingBits (small 1 1 0) badBits ∧
    (differingBits (small 1 1 0) nearBits ≤ (small 1 1 0).tolerance ∧ (small 1 1 0).verify ≤ 1) ∧
    (differingBits (small 2 1 0) goodBits ≤ (small 2 1 0).tolerance ∧ 1 < (small 2 1 0).verify) ∧
    (0xFAF3 : Window) <<< (48 - (small 2 1 0).patternBits) = goodBits ∧
    (0xFAF3 : Window).extractLsb' 0 32 ≠ 0xE4B71D29#32 ∧
    (0xE4B71D29 : Window).extractLsb' 0 32 = 0xE4B71D29#32 ∧
    ((rx (small 1 1 0) .search 0 0).resume + 32 ≤ 96 + (small 1 1 0).patternBits ∧
      95 + (small 1 1 0).patternBits < (rx (small 1 1 0) .search 0 0).resume + 32) := by
  decide +kernel

/-- The hypotheses that the three boundary statements share. -/
abbrev BoundaryMet (x : Receiver) (sync : SyncState) : Prop :=
  (withRx x).receiver 0 = x ∧ x.sync = sync ∧ x.boundary = some 100 ∧ x.order = none ∧ x.frame = none

theorem witness_boundary_bits :
    startsWithMarker goodBits = false ∧ startsWithMarker badBits = false ∧
    syncMatches (small 1 1 0) goodBits = true ∧ syncMatches (small 1 1 0) badBits = false := by decide +kernel

theorem witness_BoundaryInVerify :
    (BoundaryMet (rx (small 3 1 0) .verify 1 0) .verify ∧ 1 + 1 < (small 3 1 0).verify) ∧
    (BoundaryMet (rx (small 2 1 0) .verify 1 0) .verify ∧ (small 2 1 0).verify ≤ 1 + 1) := by decide +kernel

theorem witness_BoundaryInLocked :
    (BoundaryMet (rx (small 1 2 0) .locked 0 0) .locked ∧ 1 < (small 1 2 0).flywheel) ∧
    (BoundaryMet (rx (small 1 1 0) .locked 0 0) .locked ∧ (small 1 1 0).flywheel ≤ 1) := by decide +kernel

theorem witness_BoundaryInFlywheel :
    (BoundaryMet (rx (small 1 3 0) .flywheel 0 1) .flywheel ∧ 1 + 1 < (small 1 3 0).flywheel) ∧
    (BoundaryMet (rx (small 1 2 0) .flywheel 0 1) .flywheel ∧ (small 1 2 0).flywheel ≤ 1 + 1) := by decide +kernel

/-- A marker at an expected boundary, and one that ends at the last bit that has arrived in SEARCH. -/
theorem witness_MarkerOpensOrderFrame :
    BoundaryMet (rx (small 1 1 0) .locked 0 0) .locked ∧ SyncState.locked.atBoundary = true ∧
    (SyncState.search.atBoundary = false ∧ (rx (small 1 1 0) .search 0 0).resume ≤ 80 ∧
      (rx (small 1 1 0) .search 0 0).arrived ≤ 80 + 32) := by decide +kernel

/-- Frames of 0 and of 2 body words, with the check word they give and with another. -/
theorem witness_OrderFrameEnds :
    ({ rx (small 1 2 0) .off 0 0 with order := some 100 } : Receiver).order = some 100 ∧
    (([] : List Word).length = ((0x8000 : Word).extractLsb' 0 8).toNat) ∧
    ([0xABCD, 0x1234] : List Word).length = ((0x0002 : Word).extractLsb' 0 8).toNat ∧
    crcOf (0x0007 :: 0x0002 :: [0xABCD, 0x1234]) = 0xEFF0 ∧ crcOf [0x3F00, 0x0000] ≠ 0x7CC8 := by decide +kernel

/-- T0 held by a RESTART that has yet to set the rows, with some frames waiting. -/
def heldTrunk (n : Nat) : State :=
  ((tracked (rowIn .search 0 0 0 0) f2Format).setEngine (.restarting (order 0x3F []) [.rows, .reply])).setWaiting 0
    (List.replicate n (.frame [1, 2, 3, 4] false))

theorem witness_FramesReachTracker :
    ((tracked (rowIn .search 0 0 0 0) f2Format).receiver 0).frame = some { start := 100, mark := false } ∧
    (frameOf 1 2 3 4).length = wide.words ∧ (heldTrunk 3).held 0 = true ∧
    waitingFrames ((heldTrunk 3).tracker 0).waiting < 4 ∧ 4 ≤ waitingFrames ((heldTrunk 4).tracker 0).waiting ∧
    (heldTrunk 4).held 0 = true ∧ State.reset.held 0 = false ∧ (State.reset.tracker 0).waiting = [] ∧
    ((State.reset.setWaiting 0 [.frame [1] false, .frame [2] true]).tracker 0).waiting =
      .frame [1] false :: [.frame [2] true] ∧
    ((State.reset.setWaiting 0 [.frame [1] false, .deliveryEnded]).tracker 0).waiting =
      .frame [1] false :: (List.replicate 1 .deliveryEnded ++ []) ∧
    ((State.reset.setWaiting 0 [.frame [1] false, .deliveryEnded, .deliveryEnded, .frame [2] true]).tracker
      0).waiting = .frame [1] false :: (List.replicate 2 .deliveryEnded ++ [.frame [2] true]) := by decide +kernel

/-- A row with a tag value. -/
def tagged (v : Nat) : Row := { rowIn .search 0 0 0 0 with tag := some v }

theorem witness_FrameSorted :
    ((withRx (rx (small 1 1 0) .locked 0 0)).receiver 0).profile.tagPos = 0 ∧
    (withRx (rx (small 1 1 0) .locked 0 0)).row 0 0 = none ∧
    (tracked (rowIn .unformatted 0 0 0 0) f2Format).row 0 0 = some (rowIn .unformatted 0 0 0 0) ∧
    ((withRx (rx (small 1 1 3) .locked 0 0)).receiver 0).profile.tagPos ≠ 0 ∧
    (∀ r : RowIx, ∀ y ∈ ((withRx (rx (small 1 1 3) .locked 0 0)).setRow 0 2 (some (tagged 9))).row 0 r,
      y.tag ≠ some 8) ∧
    ((withRx (rx (small 1 1 3) .locked 0 0)).setRow 0 2 (some (tagged 9))).row 0 2 = some (tagged 9) ∧
    (∀ q : RowIx, ∀ z ∈ ((withRx (rx (small 1 1 3) .locked 0 0)).setRow 0 2 (some (tagged 9))).row 0 q,
      z.tag = some 9 → q = 2) := by decide +kernel

/-- A header of one frame, and F2's with another verify count. -/
def header1 : Header := { f2Header with length := 1, idPos := 0 }

/-- A COMMITTED format slot with a header and F2's entries. -/
def formatWith (h : Header) : FormatSlot := { FormatSlot.powerOn with bankA := { f2Bank with header := some h } }

/-- In range with V = 2 and V = 1, the last frame number, below the base, at the length; then M = 1. -/
theorem witness_FrameInSearchOrSingleFrameCycle :
    (tracked (rowIn .search 0 0 0 0) f2Format).row 0 0 = some (rowIn .search 0 0 0 0) ∧
    ((tracked (rowIn .search 0 0 0 0) f2Format).activeBank 0).header = some f2Header ∧ 1 < f2Header.length ∧
    ((frameOf 3 0 0 0).getD (f2Header.idPos - 1) 0).toNat = 3 ∧ 3 - f2Header.idBase < f2Header.length ∧
    1 < f2Header.verify ∧ ({ f2Header with verify := 1 } : Header).verify ≤ 1 ∧
    0 < ({ f2Header with idBase := 1 } : Header).idBase ∧ f2Header.length ≤ 4 - f2Header.idBase ∧
    ((tracked (rowIn .search 0 0 0 0) (formatWith header1)).activeBank 0).header = some header1 ∧
    header1.length = 1 ∧
    (tracked (rowIn .locked 0 0 0 0) (formatWith header1)).row 0 0 = some (rowIn .locked 0 0 0 0) := by decide +kernel

/-- The expected number below and at the verify count, another number, a number out of range. -/
theorem witness_FrameInCycleCheck :
    (tracked (rowIn .check 3 1 0 2) f2Format).row 0 0 = some (rowIn .check 3 1 0 2) ∧
    3 - f2Header.idBase = (rowIn .check 3 1 0 2).expected ∧
    (rowIn .check 3 1 0 2).check + 1 < ({ f2Header with verify := 3 } : Header).verify ∧
    f2Header.verify ≤ (rowIn .check 3 1 0 2).check + 1 ∧ 2 - f2Header.idBase ≠ (rowIn .check 3 1 0 2).expected ∧
    f2Header.length ≤ 4 - f2Header.idBase := by decide +kernel

/-- The expected number; a miss below the limit; the miss that reaches it. -/
theorem witness_FrameInCycleLocked :
    (tracked (rowIn .locked 3 0 1 2) f2Format).row 0 0 = some (rowIn .locked 3 0 1 2) ∧ 1 < f2Header.length ∧
    ((frameOf 3 0 0 0).getD (f2Header.idPos - 1) 0).toNat - f2Header.idBase = (rowIn .locked 3 0 1 2).expected ∧
    (rowIn .locked 3 0 0 2).miss + 1 < f2Header.missLimit ∧ f2Header.missLimit ≤ (rowIn .locked 3 0 1 2).miss + 1 := by
  decide +kernel

/-- A standby ARMED; no probation; a probation of 2; a probation of 1. -/
theorem witness_CycleBoundaryTaken :
    (tracked (rowIn .locked 0 0 0 3) (f2Both .armed none)).row 0 0 = some (rowIn .locked 0 0 0 3) ∧
    ((tracked (rowIn .locked 0 0 0 3) (f2Both .armed none)).format 0).standby = .armed ∧
    ((tracked (rowIn .locked 0 0 0 3) f2Format).format 0).probation = none ∧
    ((tracked (rowIn .locked 0 0 0 3) (f2Both .fallback (some 2))).format 0).probation = some 2 ∧
    ((tracked (rowIn .locked 0 0 0 3) (f2Both .fallback (some 1))).format 0).probation = some 1 ∧
    ((tracked (rowIn .locked 0 0 0 3) (f2Both .fallback (some 1))).format 0).standby ≠ .armed := by decide +kernel

theorem witness_LockLostHandled :
    (tracked (rowIn .locked 1 0 1 0) (f2Both .armed none)).row 0 0 = some (rowIn .locked 1 0 1 0) ∧
    (rowIn .locked 1 0 1 0).cycle = .locked ∧ (f2Both .armed none).standby = .armed ∧
    (f2Both .fallback (some 2)).standby ≠ .armed ∧ (f2Both .fallback (some 2)).probation.isSome = true ∧
    f2Format.standby ≠ .armed ∧ f2Format.probation = none := by decide +kernel

/-- Rows and formats bound one to one, with a row in each cycle state. -/
theorem witness_DeliveryEndedHandled :
    (∀ cycle ∈ [CycleState.locked, .check, .search, .unformatted],
      ((tracked (rowIn cycle 0 0 0 0) f2Format).BindingsLawful ∧
        (tracked (rowIn cycle 0 0 0 0) f2Format).row 0 0 = some (rowIn cycle 0 0 0 0))) ∧
    (tracked (rowIn .locked 0 0 0 0) f2Format).held 0 = false ∧
    ((tracked (rowIn .locked 0 0 0 0) f2Format).tracker 0).waiting = [] ∧ State.reset.row 0 0 = none ∧
    ((heldTrunk 1).held 0 = true ∧ ((heldTrunk 1).tracker 0).waiting ≠ []) := by
  unfold State.BindingsLawful
  decide +kernel

/-- A runtime entry, carried and not; NTH counts at and below n; rows that the new bank adjusts. -/
theorem witness_RuntimeAndRowAcrossSwitch :
    f2Bank.definition? 101 = f2Params[1]? ∧
    ((freshRuntimes f2Bank).find? (fun e => e.number == 101)).isSome = true ∧
    (∀ d ∈ f2Params[2]?, d.limits.isSome = true) ∧ (∀ d ∈ f2Params[1]?, d.limits = none) ∧
    (∀ d ∈ f2Params[2]?, d.pieces ≠ 1) ∧ (Runtime.fresh.nth < 4 ∧ ¬ 4 ≤ Runtime.fresh.nth) ∧
    4 ≤ ({ Runtime.fresh with nth := 4 } : Runtime).nth ∧ f2Bank.header = some f2Header ∧
    (rowIn .check 3 1 0 2).Lawful ∧ (rowIn .search 0 0 0 0).Lawful ∧ (rowIn .unformatted 0 0 0 0).Lawful ∧
    (rowIn .locked 3 0 1 2).Lawful ∧ (rowIn .locked 3 0 1 2).expected < f2Header.length ∧
    f2Header.length ≤ (rowIn .locked 4 0 0 2).expected := by decide +kernel

/-- An unbound format slot and a bound one, whose row the switch leaves in its cycle state and changes. -/
theorem witness_SwitchExchangesRoles :
    State.reset.boundRow 0 = none ∧ (tracked (rowIn .locked 1 0 0 0) (f2Both .armed none)).boundRow 0 = some (0, 0) ∧
    (tracked (rowIn .locked 1 0 0 0) (f2Both .armed none)).row 0 0 = some (rowIn .locked 1 0 0 0) ∧
    (adjustRow f2Bank (rowIn .locked 1 0 0 0)).cycle = .locked ∧
    (adjustRow f2Bank (rowIn .check 1 1 0 0)).cycle ≠ .check := by decide +kernel

/-- A word that is looked up and matches, one that is looked up and does not, the ID word. -/
theorem witness_SlotEntryMatching :
    (tracked (rowIn .locked 1 0 0 0) f2Format).row 0 0 = some (rowIn .locked 1 0 0 0) ∧
    lookedUp wide (some f2Header) 7 = true ∧
    f2Slots.find? (entryMatches 7 { locked := true, number := 3 }) = f2Slots[3]? ∧
    (∀ e ∈ f2Slots, entryMatches 7 { locked := false, number := 3 } e = false) ∧
    lookedUp wide (some f2Header) 3 = false := by decide +kernel

theorem witness_OverlapMeansCommonFrame :
    (slotAt 256 255).InRange ∧ (slotAt 1 0).InRange := by decide +kernel

/-- Pieces of F2's parameters as the router gives them. -/
def pieceOf (number index : Nat) : Piece :=
  { number := number, index := index, value := 0x12, width := 8, mark := false, frame := 1, cycleCount := 5,
    trunk := 0, row := 0, format := 0 }

/-- A PARTIAL context with piece 0 present. -/
def firstPiece : Partial :=
  { pieces := put (Vector.replicate 4 none) 0 (some 0x11), width := 8, cycleCount := 5, trunk := 0, row := 0,
    format := 0, mark := false }

/-- A context of 16-bit pieces, and a parameter of `n` pieces without limits. -/
def widePiece : Partial := { firstPiece with width := 16 }
def plainParam (n : Nat) (signed : Bool) : ParamDef :=
  { number := 1, pieces := n, signed := signed, link := 0, emission := .every, limits := none }

/-- One 8-bit piece, unsigned; four 16-bit pieces, the most negative signed value and a positive one. -/
theorem witness_SampleValueReadsPieces :
    (sampleOf (plainParam 1 false) firstPiece (pieceOf 1 0) [0xFF]).value = 255 ∧
    (sampleOf (plainParam 4 true) widePiece (pieceOf 1 3) [0x8000, 0, 0, 0]).value = -(2 ^ 63 : Int) ∧
    (sampleOf (plainParam 4 true) widePiece (pieceOf 1 3) [0, 0, 1, 2]).value = 0x10002 ∧
    (∀ v ∈ [0x8000, 0, 0, 0], v < 2 ^ widePiece.width) ∧ 1 ≤ firstPiece.width := by decide +kernel

/-- A single-piece parameter; an EMPTY context; one that the piece completes; one that it does not. -/
theorem witness_PieceAssembled :
    ((tracked (rowIn .locked 1 0 0 0) f2Format).activeBank 0).definition? 100 = f2Params[0]? ∧
    (∀ d ∈ f2Params[0]?, d.pieces = 1) ∧ (pieceOf 102 1).index = (1 : Fin 4).val ∧
    ((tracked (rowIn .locked 1 0 0 0) f2Format).activeBank 0).definition? 102 = f2Params[2]? ∧
    (∀ d ∈ f2Params[2]?, 2 ≤ d.pieces ∧ d.pieces ≤ 4) ∧
    heldContext 102 ((tracked (rowIn .locked 1 0 0 0) f2Format).contextsOf 0) = none ∧
    heldContext 102 [{ number := 102, held := some firstPiece }] = some firstPiece ∧
    (∀ j : Fin 4, j.val < 2 → pick (put firstPiece.pieces 1 (some 0x12)) j = [0x11, 0x12][j.val]?) ∧
    pick (put firstPiece.pieces 0 (some 0x12)) 1 = none := by decide +kernel

/-- A class kept; a run that reaches the persistence; one that does not; a first sample with p = 1 and 2. -/
theorem witness_LimitMachineStep :
    (-500 : Int) ≤ 500 ∧ LimitClass.high ≠ Runtime.fresh.limit ∧ LimitClass.inside = Runtime.fresh.limit ∧
    ({ Runtime.fresh with candidate := some .high, run := 2 } : Runtime).candidate = some .high ∧
    3 ≤ ({ Runtime.fresh with candidate := some .high, run := 2 } : Runtime).run + 1 ∧
    ({ Runtime.fresh with candidate := some .high, run := 1 } : Runtime).run + 1 < 3 ∧
    Runtime.fresh.candidate ≠ some .high := by decide +kernel

/-- NTH at n and below it; CHANGE without a last value, at the deadband and beyond it. -/
theorem witness_EmissionDecision :
    ({ Runtime.fresh with nth := 3 } : Runtime).nth + 1 = 4 ∧ Runtime.fresh.nth + 1 ≠ 4 ∧
    Runtime.fresh.emitted = none ∧ ({ Runtime.fresh with emitted := some 600 } : Runtime).emitted = some 600 ∧
    ((10 : Nat) : Int) < |30 - 600| ∧ |610 - 600| ≤ ((10 : Nat) : Int) := by
  refine ⟨rfl, by decide, rfl, rfl, by norm_num, by norm_num⟩

/-- A parameter with limits and one without. -/
theorem witness_SampleTakenOnce :
    ((tracked (rowIn .locked 1 0 0 0) f2Format).activeBank 0).definition? 102 = f2Params[2]? ∧
    (tracked (rowIn .locked 1 0 0 0) f2Format).runtime? 0 102 = some Runtime.fresh ∧
    ((tracked (rowIn .locked 1 0 0 0) f2Format).activeBank 0).definition? 101 = f2Params[1]? ∧
    (tracked (rowIn .locked 1 0 0 0) f2Format).runtime? 0 101 = some Runtime.fresh := by decide +kernel

/-- The shortest and the longest records. -/
theorem witness_RecordHeadersGiveLength :
    (sampleRecord { sample102 0 with width := 1 } false none).length = 6 ∧
    (sampleRecord { sample102 0 with width := 64 } true (some .high)).length = 9 ∧
    (eventRecord .limit 0 0 [1]).length = 5 ∧ (eventRecord .limit 0 0 [1, 2, 3, 4]).length = 8 ∧
    (replyRecord (order 0 []) .ok 0 true 0 []).length = 4 ∧
    (replyRecord (order 0 []) .ok 0 true 0 (List.replicate 56 0)).length = 60 ∧
    valueWords 2 (-1) = [0xFFFF, 0xFFFF] ∧ -(2 : Int) ^ (16 * 2) ≤ 2 * -1 ∧
    valueWords 4 (2 ^ 64 - 1) = [0xFFFF, 0xFFFF, 0xFFFF, 0xFFFF] ∧ (2 : Int) ^ 64 - 1 < 2 ^ (16 * 4) := by
  decide +kernel

/-- A link STALLED without records. -/
def stalledLink : LinkTx := { upLink 0 [] [] with state := .stalled }

theorem witness_ReadyLineAndCredits :
    (State.reset.link 0).state = .down ∧ ((State.reset.setLink 0 (upLink 63 [] [])).link 0).state = .up ∧
    ((State.reset.setLink 0 stalledLink).link 0).state = .stalled ∧ stalledLink.control = [] ∧
    stalledLink.sample = [] := by decide +kernel

theorem witness_StallTimerExpires :
    ((State.reset.setLink 0 { upLink 0 [rec4 1] [] with timer := some 1 }).link 0).timer.isSome = true ∧
    (State.reset.link 0).timer = none := by decide +kernel

/-- A part without a command whose stall timers stand at given counts. -/
def timers (a b : Nat) : State :=
  (State.reset.setLink 0 { upLink 0 [rec4 1] [] with timer := some a }).setLink 1
    { upLink 0 [rec4 1] [] with timer := some b }

/-- Neither timer, each of them alone, and both at their last unit. -/
theorem witness_StallTimerExpires_unit :
    (timers 2 1).pending = [] ∧ ((timers 2 1).link 0).timer.map (fun n => n - 1) ≠ some 0 ∧
    ((timers 2 1).link 1).timer.map (fun n => n - 1) = some 0 ∧
    ((timers 1 2).link 0).timer.map (fun n => n - 1) = some 0 ∧
    ((timers 1 1).link 0).timer.map (fun n => n - 1) = some 0 ∧
    ((timers 1 1).link 1).timer.map (fun n => n - 1) = some 0 := by decide +kernel

theorem witness_RecordLeavesItsLane :
    (State.reset.link 0).sending = none ∧
    ({ upLink 1 [rec4 1] [] with sending := some .control } : LinkTx).control = rec4 1 :: [] ∧
    ({ upLink 1 [] [rec4 1, rec4 2] with sending := some .sample } : LinkTx).sample = rec4 1 :: [rec4 2] := by
  decide +kernel

/-- Seven and eight control records started in a row; one credit and none; records waiting and not. -/
theorem witness_ArbiterStartsRecords :
    ({ upLink 1 [rec4 1] [rec4 2] with burst := 7 } : LinkTx).burst < 8 ∧
    8 ≤ ({ upLink 1 [rec4 1] [rec4 2] with burst := 8 } : LinkTx).burst ∧ (upLink 1 [rec4 1] []).sample = [] ∧
    (upLink 1 [] [rec4 1]).control = [] ∧ (upLink 0 [rec4 1] []).credits = 0 ∧
    (if (upLink 0 [rec4 1] []).sending = none then 0 else 1) <
      (upLink 0 [rec4 1] []).control.length + (upLink 0 [rec4 1] []).sample.length ∧
    LinkTx.powerOn.state ≠ .up := by decide +kernel

/-- A sample lane with 511 and with 512 records. -/
theorem witness_SampleRecordPlaced :
    (upLink 0 [] (List.replicate 511 [])).sample.length < 512 ∧
    512 ≤ (upLink 0 [] (List.replicate 512 [])).sample.length ∧ (upLink 0 [] []).state = .up ∧
    (upLink 0 [] []).overrunArmed = true ∧ ({ upLink 0 [] [] with overrunArmed := false } : LinkTx).overrunArmed = false ∧
    (State.reset.link 0).state ≠ .up := by decide +kernel

/-- A kind enabled and not; a control lane with 31 and with 32 records; both one-shot reports armed. -/
theorem witness_EventPlacedLostOrReportedOnce :
    State.reset.events.enabled.getLsbD (EventKind.limit.code - 1) = true ∧
    ({ EventUnit.powerOn with enabled := 0x1FB } : EventUnit).enabled.getLsbD (EventKind.limit.code - 1) = false ∧
    ((State.reset.setLink 0 (upLink 0 (List.replicate 31 []) [])).link 0).control.length < 32 ∧
    32 ≤ ((State.reset.setLink 0 (upLink 0 (List.replicate 32 []) [])).link 0).control.length ∧
    State.reset.events.enabled.getLsbD 6 = true ∧ State.reset.events.enabled.getLsbD 7 = true ∧
    State.reset.events.enabled.getLsbD 8 = true ∧ State.reset.events.refusalArmed.getLsbD 3 = true ∧
    State.reset.events.shedArmed = true ∧
    ({ EventUnit.powerOn with enabled := 0x1BF } : EventUnit).enabled.getLsbD 6 = false ∧
    ({ EventUnit.powerOn with refusalArmed := 0x7 } : EventUnit).refusalArmed.getLsbD 3 = false := by decide +kernel

/-- The part with orders queued behind an engine state. -/
def queued (n : Nat) (e : Engine) : State :=
  State.reset.setOrders
    { OrderUnit.powerOn with
      queue := List.replicate n { order 0x00 [] with header := 0x0009 }, engine := e }

/-- Outside the accept set; a repeated tag; eight queued; seven queued; none queued behind an IDLE engine. -/
theorem witness_HandedFrameTested :
    inTrunks State.reset.orders.accept 1 = false ∧ inTrunks State.reset.orders.accept 0 = true ∧
    ({ order 0x00 [] with header := 0x0009 } : QueuedOrder).tag ≠ 0 ∧
    (∃ q ∈ (queued 1 (.executing (order 0x00 []))).orders.queue, q.trunk = 0 ∧ q.tag = 9) ∧
    (order 0x00 []).tag = 0 ∧ 8 ≤ (queued 8 (.executing (order 0x00 []))).orders.queue.length ∧
    (queued 7 (.executing (order 0x00 []))).orders.queue.length < 8 ∧
    (queued 7 (.executing (order 0x00 []))).orders.engine ≠ .idle ∧ (queued 0 .idle).orders.queue = [] ∧
    (queued 0 .idle).orders.engine = .idle ∧
    (queued 2 .idle).orders.queue =
      { order 0x00 [] with header := 0x0009 } :: [{ order 0x00 [] with header := 0x0009 }] := by decide +kernel

/-- A lane with room for exactly the reply's records, a full lane, a link that is not UP; tags and queue. -/
theorem witness_RepliesPlacedDiscardedOrHeld :
    ((State.reset.setLink 0 (upLink 0 (List.replicate 31 []) [])).link (order 0x00 []).replyLink).state = .up ∧
    ((State.reset.setLink 0 (upLink 0 (List.replicate 31 []) [])).link 0).control.length +
      (Reply.one .ok 0 []).bodies.length ≤ 32 ∧
    (replyRecords (order 0x00 []) (Reply.one .ok 0 [])).getLast?.isSome = true ∧
    (Reply.one .ok 0 []).bodies[0]? = some [] ∧
    32 ≤ ((State.reset.setLink 0 (upLink 0 (List.replicate 32 []) [])).link 0).control.length ∧
    (State.reset.link (order 0x00 []).replyLink).state ≠ .up ∧
    (queued 1 (.executing (order 0x00 []))).orders.queue = { order 0x00 [] with header := 0x0009 } :: [] := by
  decide +kernel

theorem witness_RoomNoticeTaken :
    (waiting 32 (some .departed)).orders.engine = .replying (order 0x00 []) (rec4 1) [] ∧
    (waiting 32 (some .departed)).orders.notice = some .departed ∧
    32 ≤ ((waiting 32 (some .departed)).link 0).control.length ∧
    ((waiting 31 (some .departed)).link 0).control.length < 32 ∧ ((waiting 31 (some .departed)).link 0).state = .up ∧
    (waiting 31 (some .leftUp)).orders.notice = some .leftUp ∧ (1 : Link) ≠ (order 0x00 []).replyLink ∧
    (waiting 32 none).orders.notice = none ∧
    ((after (.linkDown 0) (waiting 32 (some .departed))).link 0).state ≠ .up := by
  decide +kernel

/-- A tagged COMMIT whose trunk's reply memory holds its tag and code, and orders that fail a frame check. -/
theorem witness_OrderReplayedOrFrameChecked :
    ({ order 0x14 [0] with header := 0x1409 } : QueuedOrder).code = 0x14 ∧
    ({ order 0x14 [0] with header := 0x1409 } : QueuedOrder).tag = 9 ∧
    pick (put OrderUnit.powerOn.memory 0 (some { tag := 9, code := 0x14, record := rec4 1 })) 0 =
      some { tag := 9, code := 0x14, record := rec4 1 } ∧
    storedReply (order 0x14 [0]) State.reset = none ∧
    ({ order 0x14 [0] with control := 0x4001 } : QueuedOrder).control.extractLsb' 8 7 ≠ 0 ∧
    (order 0x14 [0, 0]).control.extractLsb' 8 7 = 0 ∧ permittedCount 0x14 (order 0x14 [0, 0]).bodyCount = false := by
  decide +kernel

/-- Every order of a body that its code permits is carried out in this state (the premise `Carries`). -/
theorem witness_Carries :
    (executing (order 0x00 [7]) State.reset).Carries 0x00 (order 0x00 [7]) ∧
    (executing (order 0x01 setTrunkBody) State.reset).Carries 0x01 (order 0x01 setTrunkBody) ∧
    (executing (order 0x02 [0, 0, 3, 0]) State.reset).Carries 0x02 (order 0x02 [0, 0, 3, 0]) ∧
    (executing (order 0x03 [0, 0]) State.reset).Carries 0x03 (order 0x03 [0, 0]) ∧
    (executing (order 0x10 [2, 4, 3, 0, 2, 2, 2]) State.reset).Carries 0x10 (order 0x10 [2, 4, 3, 0, 2, 2, 2]) ∧
    (executing (order 0x11 stageSlotsBody) State.reset).Carries 0x11 (order 0x11 stageSlotsBody) ∧
    (executing (order 0x12 stageParamsBody) State.reset).Carries 0x12 (order 0x12 stageParamsBody) ∧
    (executing (order 0x13 [2]) State.reset).Carries 0x13 (order 0x13 [2]) ∧
    (executing (order 0x14 [2]) State.reset).Carries 0x14 (order 0x14 [2]) ∧
    (executing (order 0x15 [2]) State.reset).Carries 0x15 (order 0x15 [2]) := by decide +kernel

theorem witness_Carries_more :
    (executing (order 0x20 [0x1065, 0, 0, 0, 0, 0]) State.reset).Carries 0x20 (order 0x20 [0x1065, 0, 0, 0, 0, 0]) ∧
    (executing (order 0x21 [102]) State.reset).Carries 0x21 (order 0x21 [102]) ∧
    (executing (order 0x22 [0, 0, 0, 0, 0]) State.reset).Carries 0x22 (order 0x22 [0, 0, 0, 0, 0]) ∧
    (executing (order 0x23 [0, 0]) State.reset).Carries 0x23 (order 0x23 [0, 0]) ∧
    (executing (order 0x24 [0, 0]) State.reset).Carries 0x24 (order 0x24 [0, 0]) ∧
    (executing (order 0x30 [1]) State.reset).Carries 0x30 (order 0x30 [1]) ∧
    (executing (order 0x31 [0, 0, 1, 1]) State.reset).Carries 0x31 (order 0x31 [0, 0, 1, 1]) ∧
    (executing (order 0x3F []) State.reset).Carries 0x3F (order 0x3F []) := by decide +kernel

theorem witness_EchoAndUnknownOrderAnswered :
    (executing (order 0x3E []) State.reset).orders.engine = .executing (order 0x3E []) ∧
    knownCode (order 0x3E []).code = false := by decide +kernel

/-- A word out of range; rows 1 to 3 in use; a bank that does not fit; an accepted order. -/
theorem witness_SetTrunkCarriedOut :
    rangeFailure (setTrunkRanges (order 0x01 [0, 1, 7, 4, 2, 0, 0, 0xFAF3, 1, 1, 2, 0])) = some 2 ∧
    rangeFailure (setTrunkRanges (order 0x01 setTrunkBody)) = none ∧ (order 0x01 setTrunkBody).arg 0 = (0 : Trunk).val ∧
    untaggedFailure 0 (profileOf (order 0x01 setTrunkBody)) (State.reset.setRow 0 2 (some (tagged 9))) = some 2 ∧
    untaggedFailure 0 (profileOf (order 0x01 setTrunkBody)) State.reset = none ∧
    trunkPositionFailure 0 (profileOf (order 0x01 setTrunkBody)) (tracked (rowIn .search 0 0 0 0) f2Format) =
      some (0, 0, .a) ∧
    trunkPositionFailure 0 (profileOf (order 0x01 setTrunkBody)) State.reset = none := by decide +kernel

/-- The formats of one occupied row, an order to begin and one between its steps; a bank beside which an ARMED
standby is the first to fail. -/
theorem witness_SetTrunkCarriedOut_steps :
    rangeFailure (setTrunkRanges (order 0x01 wideBody)) = none ∧ (order 0x01 wideBody).arg 0 = (0 : Trunk).val ∧
    trunkPositionFailure 0 (profileOf (order 0x01 wideBody)) (tracked (rowIn .locked 2 0 0 1) (f2Both .armed none)) =
      none ∧
    formatsOnTrunk 0 (tracked (rowIn .locked 2 0 0 1) (f2Both .armed none)) = [0] ∧
    (settledBy (.setTrunk 0 1) (order 0x01 wideBody)).orders.engine = .settling (order 0x01 wideBody) [] ∧
    untaggedFailure 0 (profileOf (order 0x01 wideBody)) (settledBy (.setTrunk 0 1) (order 0x01 wideBody)) = none ∧
    (order 0x01 wideBody).code = 0x01 ∧
    trunkPositionFailure 0 (profileOf (order 0x01 wideBody)) (tracked (rowIn .locked 2 0 0 1)
      { f2Both .armed none with bankB := { f2Bank with header := some { f2Header with idPos := 8 } } }) =
      some (0xFFFF, 0, .b) ∧
    (settledBy (.unbindSource 1) (order 0x03 [0, 0])).orders.engine = .settling (order 0x03 [0, 0]) [] ∧
    ((settledBy (.unbindSource 1) (order 0x03 [0, 0])).row 0 0).isSome = true := by decide +kernel

/-- Words at and past the ends of their ranges, an occupied row, a tag in use, a bound format, positions that
do not fit, a vacant row with a tag at the width's end. -/
theorem witness_SourcesBoundAndUnbound :
    4 ≤ (order 0x02 [4, 0, 0, 0]).arg 0 ∧ (order 0x02 [3, 4, 0, 0]).arg 0 < 4 ∧ 4 ≤ (order 0x02 [3, 4, 0, 0]).arg 1 ∧
    8 ≤ (order 0x02 [3, 3, 8, 0]).arg 2 ∧ 2 ^ (small 1 1 3).width ≤ (order 0x02 [0, 0, 0, 256]).arg 3 ∧
    ((withRx (rx (small 1 1 3) .locked 0 0)).setRow 0 2 (some (tagged 9))).row 0 2 = some (tagged 9) ∧
    (tagged 9).tag = some ((order 0x02 [0, 0, 0, 9]).arg 3) ∧
    (∀ q : RowIx, q < 2 → ((withRx (rx (small 1 1 3) .locked 0 0)).setRow 0 2 (some (tagged 9))).row 0 q = none) ∧
    (order 0x02 [0, 0, 0, 255]).arg 3 < 2 ^ (small 1 1 3).width ∧ State.reset.row 0 0 = none ∧
    (tracked (rowIn .search 0 0 0 0) f2Format).row 0 0 = some (rowIn .search 0 0 0 0) ∧
    (tracked (rowIn .search 0 0 0 0) f2Format).boundRow 0 = some (0, 0) ∧ State.reset.boundRow 0 = none ∧
    positionFailure (small 1 1 0) ((State.reset.setFormat 0 f2Format).activeBank 0) = some 0 ∧
    positionFailure wide ((State.reset.setFormat 0 f2Format).activeBank 0) = none ∧
    positionFailure (small 1 1 0) (State.reset.activeBank 0) = none ∧
    (f2Both .armed none).standby = .armed ∧
    ((f2Both .fallback (some 1)).standby ≠ .armed ∧ (f2Both .fallback (some 1)).probation.isSome = true) ∧
    (f2Format.standby ≠ .armed ∧ f2Format.probation = none) := by decide +kernel

/-- A header in and out of range; entries and definitions that pass, with room for all and for fewer. -/
theorem witness_StandbyStaged :
    (order 0x10 [2, 4, 3, 0, 2, 2, 2]).arg 0 = (2 : Slot).val ∧ (State.reset.format 2).isPending = false ∧
    headerFailure (headerOf (order 0x10 [2, 256, 1024, 1, 8, 8, 15])) = none ∧
    headerFailure (headerOf (order 0x10 [2, 257, 3, 0, 2, 2, 2])) = some 0 ∧
    (addSlots 0 [] (slotItems (order 0x11 stageSlotsBody).body.tail)).toOption = some f2Slots ∧
    (slotItems (order 0x11 stageSlotsBody).body.tail).length ≤ 4 ∧
    3 < (slotItems (order 0x11 stageSlotsBody).body.tail).length ∧
    (addParams 0 [] (paramItems (order 0x12 stageParamsBody).body.tail)).toOption = some f2Params ∧
    (paramItems (order 0x12 stageParamsBody).body.tail).length = 3 := by decide +kernel

/-- Each standby state that is opened; header fields at and past their ranges' ends; words of entries and
definitions that are read and that are not (a reserved bit, the interval's end, lo above hi). -/
theorem witness_StandbyStaged_opened :
    (State.reset.format 2).standby = .empty ∧ (State.reset.format 2).Lawful ∧
    (f2Standby .staging).standby = .staging ∧ (f2Both .fallback none).standby = .fallback ∧
    headerFailure (headerOf (order 0x10 [2, 1, 0, 1, 8, 8, 15])) = none ∧
    headerFailure (headerOf (order 0x10 [2, 2, 0, 1, 8, 8, 15])) = some 1 ∧
    headerFailure (headerOf (order 0x10 [2, 2, 1, 1, 8, 8, 16])) = some 5 ∧
    (slotEntryOf 0x0400 0xFFFF 0xCFFF).isSome = true ∧ slotEntryOf 0x0400 0xFEFF 0xCFFF = none ∧
    slotEntryOf 0x0C00 0xFFFF 0xCFFF = none ∧ slotEntryOf 0x0400 0xFFFF 0xDFFF = none ∧
    (paramDefOf 0x4FFF 0xE2FF 0 0xFFFF 0xFF00 0x0000).isSome = true ∧
    paramDefOf 0x4FFF 0xE2FF 0 0x0000 0x01FF 0xFFFF = none ∧ paramDefOf 0x4FFF 0xF2FF 0 0 0 0 = none := by
  decide +kernel

/-- A second entry out of range and one that overlaps; a second definition out of range and a number repeated. -/
theorem witness_StandbyStaged_refused :
    addSlots 0 [] [some (slotAt 2 0), none] = .error (.badArgument, 1) ∧
    addSlots 0 [] [some (slotAt 2 0), some (slotAt 4 2)] = .error (.slotConflict, 1) ∧
    addParams 0 [] [some (plainParam 1 false), none] = .error (.badArgument, 1) ∧
    addParams 0 [] [some (plainParam 1 false), some (plainParam 2 true)] = .error (.paramDuplicate, 1) := by
  exact ⟨rfl, rfl, rfl, rfl⟩

theorem witness_StagingRefusedOrDiscarded :
    8 ≤ (order 0x13 [8]).arg 0 ∧ (f2Both .armed none).standby = .armed ∧
    (f2Both .fallback (some 1)).probation.isSome = true ∧ (f2Standby .staging).standby = .staging ∧
    ((f2Both .fallback none).standby = .fallback ∧ (f2Both .fallback none).probation = none) ∧
    (State.reset.format 2).standby = .empty := by decide +kernel

/-- A format word out of range, a COMMIT that fails, one that arms and one that switches at once. -/
theorem witness_CommitCarriedOut :
    8 ≤ (order 0x14 [8]).arg 0 ∧ (order 0x14 [7]).arg 0 = (7 : Slot).val ∧
    (commitFailure 2 (((staged f2Params).format 2).standbyBank) (staged f2Params)).isSome = false ∧
    (commitFailure 2 Bank.empty State.reset).isSome = true ∧
    boundLocked 0 (tracked (rowIn .locked 1 0 0 0) (f2Both .staging none)) = true ∧
    boundLocked 0 (tracked (rowIn .check 1 1 0 0) (f2Both .staging none)) = false ∧
    commitFailure 0 f2Bank (tracked (rowIn .locked 1 0 0 0) (f2Both .staging none)) = none := by decide +kernel

/-- Banks without and with a header, and one that passes every check on a bound row. -/
theorem witness_CommitChecksInOrder :
    Bank.empty.header = none ∧ f2Bank.header = some f2Header ∧
    commitFailure 0 f2Bank (tracked (rowIn .locked 1 0 0 0) (f2Both .staging none)) = none ∧
    (tracked (rowIn .locked 1 0 0 0) (f2Both .staging none)).boundRow 0 = some (0, 0) ∧ 1 < f2Header.length := by
  decide +kernel

/-- Positions that fit, an ID position past the frame, a first entry past it, an entry at the tag word. -/
theorem witness_CommitChecksInOrder_positions :
    positionFailure wide f2Bank = none ∧
    positionFailure wide { f2Bank with header := some { f2Header with idPos := 8 } } = some 0xFFFF ∧
    positionFailure { wide with words := 6 } f2Bank = some 2 ∧
    positionFailure { wide with tagPos := 6 } f2Bank = some 1 := by decide +kernel

/-- One bank for each check of COMMIT that fails on a later entry: intervals, definitions, pieces, positions
(a word past the frame), numbers in use (F2's, claimed by format slot 0). -/
theorem witness_CommitChecksInOrder_failing :
    (commitFailure 0 { f2Bank with slots := f2Slots ++ [slotAt 3 0] } State.reset).map (fun x => (x.check, x.detail)) =
      some (2, 4) ∧
    (commitFailure 0 { f2Bank with slots := f2Slots ++ [slotAt 2 0] } State.reset).map (fun x => (x.check, x.detail)) =
      some (3, 4) ∧
    (commitFailure 0 { f2Bank with slots := f2Slots.take 3 } State.reset).map (fun x => (x.check, x.detail)) =
      some (4, 2) ∧
    (commitFailure 0 { f2Bank with slots := [{ slotAt 1 0 with pos := 8, param := 100 }] }
      (tracked (rowIn .locked 1 0 0 0) (f2Both .staging none))).map (fun x => (x.check, x.detail)) = some (5, 0) ∧
    commitFailure 3 f2Bank (tracked (rowIn .locked 1 0 0 0) f2Format) =
      some { status := .paramClash, detail := 0, check := 6, other := 0 } := by decide +kernel

/-- A number no bank defines; one that is defined, with fields that pass and fields that fail. -/
theorem witness_ParameterTuned :
    (∀ f : Slot, (State.reset.activeBank f).definition? 101 = none) ∧
    definingSlot 101 (tracked (rowIn .search 0 0 0 0) f2Format) = some 0 ∧
    (tunedFieldsOf false 0x0100 1 0 0 0).toOption = none ∧
    tunedFieldsOf false 0x0300 0 0 0 0 = .error 0 ∧ tunedFieldsOf false 0x0500 256 0 0 0 = .error 0 ∧
    tunedFieldsOf false 0x0100 256 0 0 0 = .error 1 ∧ tunedFieldsOf false 0x2001 0 0 0x0100 0 = .error 3 ∧
    tunedFieldsOf false 0x2000 0 0 0 0 = .error 4 ∧
    (tunedFieldsOf false 0x0100 255 0 0 0).toOption = some { link := 0, emission := .nth 255, limits := none } ∧
    ((tracked (rowIn .search 0 0 0 0) f2Format).activeBank 0).definition? 101 = f2Params[1]? ∧
    ((tracked (rowIn .search 0 0 0 0) f2Format).activeBank 0).definition? 102 = f2Params[2]? := by
  decide +kernel

/-- Numbers 4095 and 4096; a defined number; READ_BANK and READ_STATUS words in and out of range. -/
theorem witness_ReadingsReported :
    4095 < (order 0x21 [4096]).arg 0 ∧ (order 0x21 [4095]).arg 0 ≤ 4095 ∧
    (∀ g : Slot, (State.reset.activeBank g).definition? 4095 = none) ∧
    definingSlot 102 (tracked (rowIn .search 0 0 0 0) f2Format) = some 0 ∧
    (tracked (rowIn .search 0 0 0 0) f2Format).runtime? 0 102 = some Runtime.fresh ∧
    rangeFailure (readBankRanges (order 0x22 [0, 0, 1, 0, 1153])) = some 4 ∧
    rangeFailure (readBankRanges (order 0x22 [0, 0, 1, 0, 1152])) = none ∧
    rangeFailure (readBankRanges (order 0x22 [0, 1, 2, 4095, 256])) = none ∧
    (scopeOf 4 0).toOption = none ∧ (scopeOf 3 7).toOption = some (.format 7) ∧
    ((f2Slots.drop 3).take 1 ≠ [] ∧ (f2Slots.drop 4).take 1 = []) ∧ (slotAt 256 255).InRange ∧
    (∀ d ∈ f2Params, d.InRange) ∧ (∀ d ∈ f2Params[0]?, d.emission = .every ∧ d.limits = none) ∧
    (order 0x23 [3, 7]).arg 1 = (7 : Slot).val ∧ (order 0x23 [1, 3]).arg 1 = (3 : Trunk).val ∧
    (order 0x23 [2, 1]).arg 1 = (1 : Link).val ∧
    (State.reset.setEngine (.placing (order 0x23 [1, 0]) (rec4 0) [rec4 1])).orders.engine =
      .placing (order 0x23 [1, 0]) (rec4 0) [rec4 1] := by decide +kernel

/-- Each scope at its last index and past it. -/
theorem witness_CountersCleared :
    4 ≤ (order 0x24 [4, 0]).arg 0 ∧ ((order 0x24 [0, 1]).arg 0 = 0 ∧ 1 ≤ (order 0x24 [0, 1]).arg 1) ∧
    4 ≤ (order 0x24 [1, 4]).arg 1 ∧ 2 ≤ (order 0x24 [2, 2]).arg 1 ∧ 8 ≤ (order 0x24 [3, 8]).arg 1 ∧
    (order 0x24 [0, 0]).arg 0 = 0 ∧ (order 0x24 [1, 3]).arg 1 = (3 : Trunk).val ∧
    (order 0x24 [2, 1]).arg 1 = (1 : Link).val ∧ (order 0x24 [3, 7]).arg 1 = (7 : Slot).val := by decide +kernel

/-- Accept sets 000FH and 0010H, with and without the arriving trunk; each word of SET_EVENTS at its ends. -/
theorem witness_ChannelSettingsReplaced :
    16 ≤ (order 0x30 [16]).arg 0 ∧ (order 0x30 [14]).arg 0 < 16 ∧ ((order 0x30 [14]).word 0).getLsbD 0 = false ∧
    ((order 0x30 [15]).word 0).getLsbD 0 = true ∧ (order 0x31 [1, 511, 1, 255]).arg 1 < 512 ∧
    (order 0x31 [1, 511, 1, 255]).arg 0 = (1 : Link).val ∧ (order 0x31 [1, 511, 1, 255]).arg 3 ≤ 255 ∧
    2 ≤ (order 0x31 [2, 0, 1, 1]).arg 0 ∧ 512 ≤ (order 0x31 [1, 512, 1, 1]).arg 1 ∧
    (order 0x31 [1, 0, 0, 1]).arg 2 = 0 ∧ 255 < (order 0x31 [1, 0, 1, 256]).arg 3 := by decide +kernel

/-- RESTART begun and continued; a step count that stops short and one that finishes. -/
theorem witness_RestartStepsInOrder :
    (heldTrunk 0).orders.engine = .restarting (order 0x3F []) [.rows, .reply] ∧
    ([.rows, .reply] : List RestartStep) ≠ [] ∧ 1 < ([.rows, .reply] : List RestartStep).length ∧
    ([.rows, .reply] : List RestartStep).length ≤ 2 := by decide +kernel

/-! A busy part: a locked row with an ARMED standby, a record in transmission, an order in execution and a
frame about to be delivered. It meets the premises of the statements that a step keeps the invariants. -/

/-- The busy part. -/
def busy : State :=
  { ((tracked (rowIn .locked 3 0 1 2) (f2Both .armed none)).setFree 4088 1018).setEngine
      (.executing (order 0x13 [0])) with
    links := #v[{ upLink 0 [rec4 1] [rec4 2] with sending := some .control, timer := some 250 }, upLink 2 [] []]
    pending := [.minorFrameDelivered 0 (frameOf 3 1 2 3), .discardStage] }

theorem witness_busy_steps : ∃ u, step busy = .next u := ⟨_, rfl⟩

theorem witness_invariants_links : busy.LinksLawful := by
  unfold State.LinksLawful
  decide +kernel

theorem witness_invariants_store : busy.PoolConserved ∧ busy.StoreLawful := by
  unfold State.PoolConserved State.StoreLawful
  decide +kernel

theorem witness_invariants_counts : busy.ProfilesLawful ∧ busy.ReceiversLawful ∧ busy.RowsLawful := by
  unfold State.ProfilesLawful State.ReceiversLawful State.RowsLawful
  decide +kernel

theorem witness_invariants_formats : busy.FormatsLawful := by
  unfold State.FormatsLawful State.BindingsLawful State.StoreLawful
  exact ⟨by decide +kernel, by decide +kernel, by decide +kernel, by decide +kernel⟩

theorem witness_invariants_switch : busy.SwitchLawful := by
  unfold State.SwitchLawful State.ArmedLocked
  exact ⟨witness_invariants_formats, by decide +kernel, by decide +kernel⟩

theorem witness_invariants_numbers : busy.NumbersApart := by
  unfold State.NumbersApart
  decide +kernel

theorem witness_invariants_evaluation : busy.EvaluationLawful := by
  unfold State.EvaluationLawful
  decide +kernel

theorem witness_invariants_orders : busy.OrdersLawful ∧ busy.waitLawful = true := by
  unfold State.OrdersLawful
  decide +kernel

end Sys2Proof.Tests
end

section
/-! PROOFS. The comparison at an expected boundary (R4, R7 to R9): what the synchronizer does at a hit and at a
miss, what the command answers by the state it leaves, and from these the obligations O7, O8 and O9. -/

namespace Sys2Proof.Machine

/-! ### A change of a receiver -/

/-- In the same synchronizer state no event is posted. -/
theorem changeReceiver_of_sync_eq {t : Trunk} {y : Receiver} {s : State} (h : (s.receiver t).sync = y.sync) :
    changeReceiver t y s = s.setReceiver t y := if_pos h

/-- A change of synchronizer state posts TRUNK_SYNC (R17). -/
theorem changeReceiver_of_sync_ne {t : Trunk} {y : Receiver} {s : State} (h : (s.receiver t).sync ≠ y.sync) :
    changeReceiver t y s = postTrunkSync t (s.receiver t).sync y.sync (s.setReceiver t y) := if_neg h

/-! ### The hit or miss at a boundary -/

/-- A frame taken in the state the receiver is in leaves that state. -/
theorem Receiver.takeFrame_of_sync {x : Receiver} {state : SyncState} (hs : x.sync = state)
    (e hits misses : Nat) (frame : Option Collection) :
    x.takeFrame e state hits misses frame =
      { x with
        hits := hits, misses := misses, boundary := some (e + x.profile.frameBits), frame := frame } := by
  subst hs
  rfl

section
variable {x : Receiver} (e : Nat)

/-- VERIFY, a hit below V: no frame was in collection, and none is begun (R7). -/
theorem Receiver.boundaryStep_verify_below (hs : x.sync = .verify) (hf : x.frame = none)
    (hv : x.hits + 1 < x.profile.verify) :
    x.boundaryStep e true =
      { x with hits := x.hits + 1, misses := 0, boundary := some (e + x.profile.frameBits) } := by
  have taken : x.boundaryStep e true = x.takeFrame e .verify (x.hits + 1) 0 none := by
    simp only [Receiver.boundaryStep, hs, if_pos hv]
  rw [taken, Receiver.takeFrame_of_sync hs, ← hf]

/-- VERIFY, the V-th hit (R7). -/
theorem Receiver.boundaryStep_verify_last (hs : x.sync = .verify) (hv : x.profile.verify ≤ x.hits + 1) :
    x.boundaryStep e true = x.takeFrame e .locked 0 0 (collect e false) := by
  simp only [Receiver.boundaryStep, hs, if_neg (Nat.not_lt.mpr hv)]

/-- VERIFY, a miss (R7). -/
theorem Receiver.boundaryStep_verify_miss (hs : x.sync = .verify) : x.boundaryStep e false = x.searchAfter e := by
  simp only [Receiver.boundaryStep, hs]

/-- LOCKED, a hit (R8). -/
theorem Receiver.boundaryStep_locked_hit (hs : x.sync = .locked) :
    x.boundaryStep e true =
      { x with
        hits := 0, misses := 0, boundary := some (e + x.profile.frameBits), frame := collect e false } := by
  have taken : x.boundaryStep e true = x.takeFrame e .locked 0 0 (collect e false) := by
    simp only [Receiver.boundaryStep, hs]
  rw [taken, Receiver.takeFrame_of_sync hs]

/-- LOCKED, a miss with F above 1 (R8). -/
theorem Receiver.boundaryStep_locked_below (hs : x.sync = .locked) (hf : 1 < x.profile.flywheel) :
    x.boundaryStep e false = x.takeFrame e .flywheel 0 1 (collect e true) := by
  simp only [Receiver.boundaryStep, hs, if_pos hf]

/-- LOCKED, a miss with F = 1 (R8, R15). -/
theorem Receiver.boundaryStep_locked_last (hs : x.sync = .locked) (hf : x.profile.flywheel ≤ 1) :
    x.boundaryStep e false = (x.searchAfter e).countLoss := by
  simp only [Receiver.boundaryStep, hs, if_neg (Nat.not_lt.mpr hf)]

/-- FLYWHEEL, a hit (R9). -/
theorem Receiver.boundaryStep_flywheel_hit (hs : x.sync = .flywheel) :
    x.boundaryStep e true = x.takeFrame e .locked 0 0 (collect e false) := by
  simp only [Receiver.boundaryStep, hs]

/-- FLYWHEEL, a miss below F (R9). -/
theorem Receiver.boundaryStep_flywheel_below (hs : x.sync = .flywheel)
    (hf : x.misses + 1 < x.profile.flywheel) :
    x.boundaryStep e false =
      { x with
        hits := 0, misses := x.misses + 1, boundary := some (e + x.profile.frameBits),
        frame := collect e true } := by
  have taken : x.boundaryStep e false = x.takeFrame e .flywheel 0 (x.misses + 1) (collect e true) := by
    simp only [Receiver.boundaryStep, hs, if_pos hf]
  rw [taken, Receiver.takeFrame_of_sync hs]

/-- FLYWHEEL, the F-th miss (R9, R15). -/
theorem Receiver.boundaryStep_flywheel_last (hs : x.sync = .flywheel)
    (hf : x.profile.flywheel ≤ x.misses + 1) :
    x.boundaryStep e false = (x.searchAfter e).countLoss := by
  simp only [Receiver.boundaryStep, hs, if_neg (Nat.not_lt.mpr hf)]

end

/-- A comparison is the step at the boundary of the receiver with more bits arrived, the number being the same
for a hit and for a miss. -/
theorem Receiver.compared_eq_boundaryStep (x : Receiver) (e : Nat) (bits : Window) :
    ∃ n, ∀ hit, syncMatches x.profile bits = hit →
      x.compared e bits = { x with arrived := n }.boundaryStep e hit := by
  refine ⟨max x.arrived (e + max x.profile.patternBits (markerDeparture bits)), ?_⟩
  rintro hit rfl
  rfl

/-! ### The two commands at a trunk that compares at boundaries -/

/-- A candidate is compared in SEARCH alone: in a state that compares at boundaries it changes nothing. -/
theorem exec_syncCandidateMatch_of_atBoundary {t : Trunk} {s : State}
    (h : (s.receiver t).sync.atBoundary = true) (start : Nat) (window : Window) :
    exec (.syncCandidateMatch t start window) s = .next s := by
  have notSearch : (s.receiver t).sync ≠ .search := by
    intro hs
    simp [hs, SyncState.atBoundary] at h
  have same : syncCandidate t start window s = s := if_neg (fun hc => notSearch hc.1)
  exact congrArg Host.Outcome.next same

/-- The receiver compares at its expected boundary `e`: the frame before it is delivered and no order frame is
in reception (R4, R13). -/
structure Receiver.ComparesAt (x : Receiver) (e : Nat) : Prop where
  sync : x.sync.atBoundary = true
  boundary : x.boundary = some e
  order : x.order = none
  frame : x.frame = none

/-- Such a receiver's boundary is open in the model's sense. -/
theorem Receiver.ComparesAt.boundaryOpen {x : Receiver} {e : Nat} (h : x.ComparesAt e) :
    x.boundaryOpen = true := by
  simp [Receiver.boundaryOpen, h.sync, h.order, h.frame]

section
variable {t : Trunk} {bits : Window} {s : State} {e : Nat} {y : Receiver}

/-- The command at an expected boundary whose bits are not the order marker: the receiver is changed, and a
return to SEARCH ends delivery (R11). -/
theorem exec_expectedBoundaryComparison_of_comparesAt (hc : (s.receiver t).ComparesAt e)
    (hm : startsWithMarker bits = false) (hy : (s.receiver t).compared e bits = y) :
    exec (.expectedBoundaryComparison t bits) s =
      .next (if y.sync = .search then trackerEnded t (changeReceiver t y s) else changeReceiver t y s) := by
  subst hy
  have run : boundaryComparison t bits s =
      if ((s.receiver t).compared e bits).sync = .search then
        trackerEnded t (changeReceiver t ((s.receiver t).compared e bits) s)
      else changeReceiver t ((s.receiver t).compared e bits) s := by
    simp [boundaryComparison, hc.boundary, hc.boundaryOpen, hm]
  exact congrArg Host.Outcome.next run

/-- A comparison that leaves the synchronizer state changes the receiver alone. -/
theorem exec_expectedBoundaryComparison_of_sync_eq (hc : (s.receiver t).ComparesAt e)
    (hm : startsWithMarker bits = false) (hy : (s.receiver t).compared e bits = y)
    (hsync : y.sync = (s.receiver t).sync) :
    exec (.expectedBoundaryComparison t bits) s = .next (s.setReceiver t y) := by
  have notSearch : y.sync ≠ .search := by
    intro hs
    simpa [← hsync, hs, SyncState.atBoundary] using hc.sync
  rw [exec_expectedBoundaryComparison_of_comparesAt hc hm hy, if_neg notSearch,
    changeReceiver_of_sync_eq hsync.symm]

/-- A comparison that takes the trunk to another state that compares at boundaries posts TRUNK_SYNC. -/
theorem exec_expectedBoundaryComparison_of_sync_ne {before after : SyncState}
    (hc : (s.receiver t).ComparesAt e) (hm : startsWithMarker bits = false)
    (hy : (s.receiver t).compared e bits = y) (hb : (s.receiver t).sync = before) (ha : y.sync = after)
    (hne : before ≠ after) (notSearch : after ≠ .search) :
    exec (.expectedBoundaryComparison t bits) s =
      .next (postTrunkSync t before after (s.setReceiver t y)) := by
  subst hb ha
  rw [exec_expectedBoundaryComparison_of_comparesAt hc hm hy, if_neg notSearch, changeReceiver_of_sync_ne hne]

/-- A comparison that returns the trunk to SEARCH posts TRUNK_SYNC and then ends delivery (R11). -/
theorem exec_expectedBoundaryComparison_of_search {before : SyncState} (hc : (s.receiver t).ComparesAt e)
    (hm : startsWithMarker bits = false) (hy : (s.receiver t).compared e bits = y)
    (hb : (s.receiver t).sync = before) (ha : y.sync = .search) :
    exec (.expectedBoundaryComparison t bits) s =
      .next (trackerEnded t (postTrunkSync t before .search (s.setReceiver t y))) := by
  have hne : (s.receiver t).sync ≠ y.sync := by
    intro hs
    simpa [hs, ha, SyncState.atBoundary] using hc.sync
  rw [exec_expectedBoundaryComparison_of_comparesAt hc hm hy, if_pos ha, changeReceiver_of_sync_ne hne, hb, ha]

end

/-! ### The obligations -/

/-- Settles O7: the cases of R7, each the step of the receiver and what a comparison with that step answers. -/
theorem boundaryInVerify : Obligations.BoundaryInVerify := by
  unfold Obligations.BoundaryInVerify
  rintro t bits s x e rfl hsync hboundary horder hframe hm
  have hc : (s.receiver t).ComparesAt e := ⟨by rw [hsync]; rfl, hboundary, horder, hframe⟩
  obtain ⟨n, hstep⟩ := (s.receiver t).compared_eq_boundaryStep e bits
  refine ⟨exec_syncCandidateMatch_of_atBoundary hc.sync, n, _, rfl, ?below, ?last, ?miss⟩
  case below =>
    intro hit hv
    have hy := (hstep true hit).trans (Receiver.boundaryStep_verify_below e hsync hframe hv)
    exact exec_expectedBoundaryComparison_of_sync_eq hc hm hy rfl
  case last =>
    intro hit hv
    have hy := (hstep true hit).trans (Receiver.boundaryStep_verify_last e hsync hv)
    exact exec_expectedBoundaryComparison_of_sync_ne hc hm hy hsync rfl (by decide) (by decide)
  case miss =>
    intro miss
    have hy := (hstep false miss).trans (Receiver.boundaryStep_verify_miss e hsync)
    exact exec_expectedBoundaryComparison_of_search hc hm hy hsync rfl

/-- Settles O8: the cases of R8, each the step of the receiver and what a comparison with that step answers. -/
theorem boundaryInLocked : Obligations.BoundaryInLocked := by
  unfold Obligations.BoundaryInLocked
  rintro t bits s x e rfl hsync hboundary horder hframe hm
  have hc : (s.receiver t).ComparesAt e := ⟨by rw [hsync]; rfl, hboundary, horder, hframe⟩
  obtain ⟨n, hstep⟩ := (s.receiver t).compared_eq_boundaryStep e bits
  refine ⟨exec_syncCandidateMatch_of_atBoundary hc.sync, n, _, rfl, ?hit, ?below, ?last⟩
  case hit =>
    intro hit
    have hy := (hstep true hit).trans (Receiver.boundaryStep_locked_hit e hsync)
    exact exec_expectedBoundaryComparison_of_sync_eq hc hm hy rfl
  case below =>
    intro miss hf
    have hy := (hstep false miss).trans (Receiver.boundaryStep_locked_below e hsync hf)
    exact exec_expectedBoundaryComparison_of_sync_ne hc hm hy hsync rfl (by decide) (by decide)
  case last =>
    intro miss hf
    have hy := (hstep false miss).trans (Receiver.boundaryStep_locked_last e hsync hf)
    exact exec_expectedBoundaryComparison_of_search hc hm hy hsync rfl

/-- Settles O9: the cases of R9, each the step of the receiver and what a comparison with that step answers. -/
theorem boundaryInFlywheel : Obligations.BoundaryInFlywheel := by
  unfold Obligations.BoundaryInFlywheel
  rintro t bits s x e rfl hsync hboundary horder hframe hm
  have hc : (s.receiver t).ComparesAt e := ⟨by rw [hsync]; rfl, hboundary, horder, hframe⟩
  obtain ⟨n, hstep⟩ := (s.receiver t).compared_eq_boundaryStep e bits
  refine ⟨exec_syncCandidateMatch_of_atBoundary hc.sync, n, _, rfl, ?hit, ?below, ?last⟩
  case hit =>
    intro hit
    have hy := (hstep true hit).trans (Receiver.boundaryStep_flywheel_hit e hsync)
    exact exec_expectedBoundaryComparison_of_sync_ne hc hm hy hsync rfl (by decide) (by decide)
  case below =>
    intro miss hf
    have hy := (hstep false miss).trans (Receiver.boundaryStep_flywheel_below e hsync hf)
    exact exec_expectedBoundaryComparison_of_sync_eq hc hm hy rfl
  case last =>
    intro miss hf
    have hy := (hstep false miss).trans (Receiver.boundaryStep_flywheel_last e hsync hf)
    exact exec_expectedBoundaryComparison_of_search hc hm hy hsync rfl

end Sys2Proof.Machine
end

section
/-! PROOFS. A frame at a row in CYCLE_CHECK or CYCLE_LOCKED (R27, R29, R30): what the ID word makes of the row,
what the cycle state machine answers then, and from these the obligations O16 and O17. -/

namespace Sys2Proof.Machine

/-! ### A change of a row -/

section
variable {t : Trunk} {r : RowIx} {x : Row} {g : Row → Row} {s : State}

/-- In the same cycle state no event is posted. -/
theorem changeRow_of_cycle_eq (hx : s.row t r = some x) (h : x.cycle = (g x).cycle) :
    changeRow t r g s = s.setRow t r (some (g x)) := by
  simp only [changeRow, hx, if_pos h]

/-- A change of cycle state posts CYCLE_SYNC (R36). -/
theorem changeRow_of_cycle_ne (hx : s.row t r = some x) (h : x.cycle ≠ (g x).cycle) :
    changeRow t r g s = postCycleSync t r x.cycle (g x) (s.setRow t r (some (g x))) := by
  simp only [changeRow, hx, if_neg h]

end

/-! ### The frame number of an ID word -/

/-- An ID word in range gives its distance from the base (R27). -/
theorem frameNumberOf_of_inRange {h : Header} {v : Nat} (hb : h.idBase ≤ v) (hm : v - h.idBase < h.length) :
    frameNumberOf h v = some (v - h.idBase) := if_pos ⟨hb, hm⟩

/-- An ID word out of range gives no frame number (R27). -/
theorem frameNumberOf_of_outOfRange {h : Header} {v : Nat} (ho : v < h.idBase ∨ h.length ≤ v - h.idBase) :
    frameNumberOf h v = none := if_neg (by omega)

/-- The ID words that give the frame number `n`. -/
theorem frameNumberOf_eq_some_iff {h : Header} {v n : Nat} :
    frameNumberOf h v = some n ↔ h.idBase ≤ v ∧ v - h.idBase < h.length ∧ v - h.idBase = n := by
  simp only [frameNumberOf, Option.ite_none_right_eq_some, Option.some.injEq, and_assoc]

/-! ### The row in CYCLE_CHECK (R29) -/

section
variable {h : Header} {words : List Word} {x : Row} {n : Nat}

/-- The expected number below the verify count: it is counted. -/
theorem checkRow_expected_below (hn : frameNumberOf h (idWordOf h words) = some n) (he : n = x.expected)
    (hv : x.check + 1 < h.verify) :
    checkRow h words x = (x.checkAt h.length n (x.check + 1), { locked := false, number := n }) := by
  simp only [checkRow, hn, if_pos he, if_pos hv]

/-- The expected number at the verify count: the row locks. -/
theorem checkRow_expected_last (hn : frameNumberOf h (idWordOf h words) = some n) (he : n = x.expected)
    (hv : h.verify ≤ x.check + 1) :
    checkRow h words x = (x.lockAt h.length n, { locked := true, number := n }) := by
  simp only [checkRow, hn, if_pos he, if_neg (Nat.not_lt.mpr hv)]

/-- Another number in range: checking restarts from this frame. -/
theorem checkRow_other (hn : frameNumberOf h (idWordOf h words) = some n) (he : n ≠ x.expected) :
    checkRow h words x = (x.checkAt h.length n 1, { locked := false, number := n }) := by
  simp only [checkRow, hn, if_neg he]

/-- A number out of range: the row returns to CYCLE_SEARCH. -/
theorem checkRow_outOfRange (hn : frameNumberOf h (idWordOf h words) = none) :
    checkRow h words x =
      ({ x with cycle := .search, check := 0 }, { locked := false, number := x.current }) := by
  simp only [checkRow, hn]

/-- A row that checks on stays in CYCLE_CHECK. -/
theorem Row.checkAt_of_check (hc : x.cycle = .check) (m n count : Nat) :
    x.checkAt m n count = { x with check := count, expected := (n + 1) % m, current := n } := by
  simp only [Row.checkAt, ← hc]

end

/-! ### The row in CYCLE_LOCKED (R30) -/

section
variable {h : Header} {words : List Word} {x : Row}

/-- With M above 1 the ID word alone decides between a clear miss count and a miss. -/
theorem lockedRow_of_length_ne_one (hm : h.length ≠ 1) :
    lockedRow h words x =
      if h.idBase ≤ idWordOf h words ∧ idWordOf h words - h.idBase < h.length ∧
          idWordOf h words - h.idBase = x.expected then
        { x with current := x.expected, miss := 0 }
      else { x with current := x.expected, miss := x.miss + 1, mismatches := bump x.mismatches } := by
  simp only [lockedRow, if_neg hm, frameNumberOf_eq_some_iff]

/-- The comparison of the ID word does not move the expected number on. -/
theorem lockedRow_expected (hm : h.length ≠ 1) : (lockedRow h words x).expected = x.expected := by
  unfold lockedRow
  rw [if_neg hm]
  split <;> rfl

end

/-! ### The cycle state machine and the frame -/

section
variable {t : Trunk} {r : RowIx} {x y : Row} {h : Header} {words : List Word} {s : State} {st : Standing}

/-- In CYCLE_CHECK a row that stays there is replaced without an event. -/
theorem cycleStep_check_stays (hx : s.row t r = some x) (hc : x.cycle = .check)
    (hr : checkRow h words x = (y, st)) (hy : y.cycle = .check) :
    cycleStep t r h words x s = (s.setRow t r (some y), st) := by
  have same : x.cycle = y.cycle := hc.trans hy.symm
  simp only [cycleStep, hc, hr, changeRow_of_cycle_eq (g := fun _ => y) hx same]

/-- In CYCLE_CHECK a row that leaves posts CYCLE_SYNC. -/
theorem cycleStep_check_leaves (hx : s.row t r = some x) (hc : x.cycle = .check)
    (hr : checkRow h words x = (y, st)) (hy : y.cycle ≠ .check) :
    cycleStep t r h words x s = (postCycleSync t r .check y (s.setRow t r (some y)), st) := by
  have other : x.cycle ≠ y.cycle := hc ▸ hy.symm
  simp only [cycleStep, hc, hr, changeRow_of_cycle_ne (g := fun _ => y) hx other]

/-- In CYCLE_LOCKED below the miss limit the expected number moves on. -/
theorem cycleStep_locked_below (hc : x.cycle = .locked) (hm : h.length ≠ 1) (hr : lockedRow h words x = y)
    (hl : y.miss < h.missLimit) :
    cycleStep t r h words x s =
      (s.setRow t r (some { y with expected := (x.expected + 1) % h.length }),
        { locked := true, number := x.expected }) := by
  have he : y.expected = x.expected := hr ▸ lockedRow_expected hm
  have below : ¬ (h.length ≠ 1 ∧ h.missLimit ≤ y.miss) := fun k => Nat.not_le.mpr hl k.2
  simp only [cycleStep, hc, hr, if_neg below, he]

/-- In CYCLE_LOCKED at the miss limit lock is lost (R33). -/
theorem cycleStep_locked_limit (hc : x.cycle = .locked) (hm : h.length ≠ 1) (hr : lockedRow h words x = y)
    (hl : h.missLimit ≤ y.miss) :
    cycleStep t r h words x s =
      (loseLock t r .traffic (s.setRow t r (some y)), { locked := false, number := x.expected }) := by
  have he : y.expected = x.expected := hr ▸ lockedRow_expected hm
  simp only [cycleStep, hc, hr, if_pos (And.intro hm hl), he]

variable {u : State} {n : Nat}

/-- A frame that leaves its row unlocked is routed so, and no cycle boundary follows it. -/
theorem rowFrame_of_unlocked (hc : x.cycle ≠ .unformatted) (hh : (s.activeBank x.format).header = some h)
    (step : cycleStep t r h words x s = (u, { locked := false, number := n })) (mark : Bool) :
    rowFrame t r x words mark s = routeFrame t r { locked := false, number := n } words mark u := by
  simp [rowFrame, hc, hh, step]

/-- A frame at a locked row is routed so, and frame M − 1 is followed by a cycle boundary (R32). -/
theorem rowFrame_of_locked (hc : x.cycle ≠ .unformatted) (hh : (s.activeBank x.format).header = some h)
    (step : cycleStep t r h words x s = (u, { locked := true, number := n })) (mark : Bool) :
    rowFrame t r x words mark s =
      if n + 1 = h.length then cycleBoundary t r (routeFrame t r { locked := true, number := n } words mark u)
      else routeFrame t r { locked := true, number := n } words mark u := by
  simp [rowFrame, hc, hh, step]

end

/-! ### The obligations -/

/-- Settles O16: the cases of R29, each the row that the ID word gives and what a frame with that row does. -/
theorem frameInCycleCheck : Obligations.FrameInCycleCheck := by
  unfold Obligations.FrameInCycleCheck
  rintro t r x h words mark s v n hx hc hh - rfl rfl
  have formatted : x.cycle ≠ .unformatted := by simp [hc]
  refine ⟨?below, ?last, ?other, ?outOfRange⟩
  case below =>
    intro hb hn he hv
    have hr := checkRow_expected_below (frameNumberOf_of_inRange hb hn) he hv
    rw [Row.checkAt_of_check hc] at hr
    exact rowFrame_of_unlocked formatted hh (cycleStep_check_stays hx hc hr hc) mark
  case last =>
    rintro hb hn he hv y u rfl rfl
    have hr := checkRow_expected_last (frameNumberOf_of_inRange hb hn) he hv
    exact rowFrame_of_locked formatted hh (cycleStep_check_leaves hx hc hr nofun) mark
  case other =>
    intro hb hn he
    have hr := checkRow_other (frameNumberOf_of_inRange hb hn) he
    rw [Row.checkAt_of_check hc] at hr
    exact rowFrame_of_unlocked formatted hh (cycleStep_check_stays hx hc hr hc) mark
  case outOfRange =>
    rintro ho y rfl
    have hr := checkRow_outOfRange (x := x) (frameNumberOf_of_outOfRange ho)
    exact rowFrame_of_unlocked formatted hh (cycleStep_check_leaves hx hc hr nofun) mark

/-- Settles O17: the row that the ID word gives, and what a frame with that row does on either side of the miss
limit (R30). -/
theorem frameInCycleLocked : Obligations.FrameInCycleLocked := by
  unfold Obligations.FrameInCycleLocked
  rintro t r x y h words mark s v - hc hh hm rfl hy
  have formatted : x.cycle ≠ .unformatted := by simp [hc]
  have hr : lockedRow h words x = y := (lockedRow_of_length_ne_one hm.ne').trans hy.symm
  refine ⟨?below, ?limit⟩
  case below =>
    rintro hl u rfl
    exact rowFrame_of_locked formatted hh (cycleStep_locked_below hc hm.ne' hr hl) mark
  case limit =>
    intro hl
    exact rowFrame_of_unlocked formatted hh (cycleStep_locked_limit hc hm.ne' hr hl) mark

end Sys2Proof.Machine
end

section
/-! PROOFS. The value of a sample (R90): the concatenation of its pieces is a number whose digits to base 2^W are
the pieces, the last one least significant, and its signed reading is two's complement; from these the
obligation O25. -/

namespace Sys2Proof.Machine

/-! ### The concatenation of the pieces -/

section
variable {w : Nat} {vs : List Nat}

/-- The pieces are the digits of their concatenation, most significant first. -/
theorem concatPieces_eq_ofDigits (w : Nat) (vs : List Nat) :
    concatPieces w vs = Nat.ofDigits (2 ^ w) vs.reverse := by
  simp only [concatPieces, Nat.ofDigits_eq_foldr, List.foldr_reverse, Nat.cast_id, Nat.add_comm, Nat.mul_comm]

/-- The concatenation fits in the width of all the pieces. -/
theorem concatPieces_lt (hw : 1 ≤ w) (hvs : ∀ v ∈ vs, v < 2 ^ w) : concatPieces w vs < 2 ^ (vs.length * w) := by
  have base : 1 < 2 ^ w := Nat.one_lt_two_pow (Nat.pos_iff_ne_zero.mp hw)
  have bound : Nat.ofDigits (2 ^ w) vs.reverse < (2 ^ w) ^ vs.reverse.length :=
    Nat.ofDigits_lt_base_pow_length base fun v hv => hvs v (List.mem_reverse.mp hv)
  rwa [concatPieces_eq_ofDigits, Nat.mul_comm, Nat.pow_mul, ← List.length_reverse]

/-- A digit of a number given by its digits to base `b`. -/
theorem ofDigits_div_pow_mod {b : Nat} {ds : List Nat} (hds : ∀ d ∈ ds, d < b) {k : Nat} (hk : k < ds.length) :
    Nat.ofDigits b ds / b ^ k % b = ds[k] := by
  have digit : ds[k] < b := hds _ (List.getElem_mem hk)
  rw [Nat.ofDigits_div_pow_eq_ofDigits_drop k (Nat.zero_lt_of_lt digit) ds hds, List.drop_eq_getElem_cons hk,
    Nat.ofDigits_cons, Nat.add_mul_mod_self_left, Nat.mod_eq_of_lt digit]

/-- Piece `i` is read back from the concatenation, above the pieces that follow it. -/
theorem concatPieces_piece (hvs : ∀ v ∈ vs, v < 2 ^ w) {i : Nat} (hi : i < vs.length) :
    concatPieces w vs / 2 ^ ((vs.length - 1 - i) * w) % 2 ^ w = vs[i] := by
  have hk : vs.length - 1 - i < vs.reverse.length := by rw [List.length_reverse]; omega
  have hback : vs.length - 1 - (vs.length - 1 - i) = i := by omega
  rw [concatPieces_eq_ofDigits, Nat.mul_comm, Nat.pow_mul,
    ofDigits_div_pow_mod (fun v hv => hvs v (List.mem_reverse.mp hv)) hk]
  simp only [List.getElem_reverse, hback]

end

/-! ### The reading of the concatenation -/

section
variable {width n : Nat}

/-- Without the signed setting the value is the number itself. -/
@[simp] theorem readValue_unsigned : readValue false width n = n := rfl

/-- With the signed setting and the most significant bit 0 the value is the number itself. -/
theorem readValue_signed_below (h : n < 2 ^ (width - 1)) : readValue true width n = n := by
  simp [readValue, Nat.not_le.mpr h]

/-- With the signed setting and the most significant bit 1 the value is the number less 2^width. -/
theorem readValue_signed_above (h : 2 ^ (width - 1) ≤ n) : readValue true width n = (n : Int) - 2 ^ width := by
  simp [readValue, h]

/-- The signed reading is two's complement of the width. -/
theorem readValue_signed_eq_toInt (hw : 1 ≤ width) (hn : n < 2 ^ width) :
    readValue true width n = (BitVec.ofNat width n).toInt := by
  have toNat : (BitVec.ofNat width n).toNat = n := BitVec.toNat_ofNat n width ▸ Nat.mod_eq_of_lt hn
  have half : 2 * 2 ^ (width - 1) = 2 ^ width := mul_pow_sub_one (Nat.pos_iff_ne_zero.mp hw) 2
  rw [BitVec.toInt_eq_toNat_cond, toNat]
  rcases Nat.lt_or_ge n (2 ^ (width - 1)) with below | above
  · rw [readValue_signed_below below, if_pos (by omega)]
  · rw [readValue_signed_above above, if_neg (by omega)]
    norm_cast

end

/-! ### The obligation -/

/-- Settles O25: the number read is the concatenation of the pieces. -/
theorem sampleValueReadsPieces : Obligations.SampleValueReadsPieces := by
  unfold Obligations.SampleValueReadsPieces
  rintro d c p vs x rfl hpieces hlength hw hvs
  have value : (sampleOf d c p vs).value =
      readValue d.signed (d.pieces * c.width) (concatPieces c.width vs) := rfl
  have width_pos : 1 ≤ d.pieces * c.width := Nat.mul_pos hpieces hw
  have fits : concatPieces c.width vs < 2 ^ (d.pieces * c.width) := hlength ▸ concatPieces_lt hw hvs
  refine ⟨rfl, concatPieces c.width vs, fits, ?piece, ?unsigned, ?signed⟩
  case piece =>
    intro i hi
    rw [← hlength] at hi ⊢
    rw [concatPieces_piece hvs hi, List.getD_eq_getElem vs 0 hi]
  case unsigned =>
    intro hs
    rw [value, hs, readValue_unsigned]
  case signed =>
    intro hs
    rw [value, hs]
    exact ⟨readValue_signed_eq_toInt width_pos fits, readValue_signed_below, readValue_signed_above⟩

end Sys2Proof.Machine
end

section
/-! PROOFS. The limit machine and the emission decision (R102 to R109): the classes of a value, the run of a class
that is not the limit state's, what each emission mode decides of a sample that is not forced, and what forcing
adds; from these the obligations O27 and O28. -/

namespace Sys2Proof.Machine

/-! ### The class of a value -/

section
variable {l : Limits} {v : Int}

/-- A value is LOW below the low limit (R102). -/
theorem classOf_eq_low_iff : classOf l v = .low ↔ v < l.lo := by
  unfold classOf
  split
  case isTrue below => simp [below]
  case isFalse below => split <;> simp [below]

/-- A value is HIGH above the high limit (R102). -/
theorem classOf_eq_high_iff (ordered : l.lo ≤ l.hi) : classOf l v = .high ↔ l.hi < v := by
  unfold classOf
  split
  case isTrue below =>
    have notAbove : ¬ l.hi < v := by omega
    simp [notAbove]
  case isFalse =>
    split
    case isTrue above => simp [above]
    case isFalse notAbove => simp [notAbove]

/-- A value is IN between the limits, both included (R102). -/
theorem classOf_eq_inside_iff : classOf l v = .inside ↔ l.lo ≤ v ∧ v ≤ l.hi := by
  unfold classOf
  split
  case isTrue below => simp [below]
  case isFalse below =>
    have atLeast : l.lo ≤ v := Int.not_lt.mp below
    split
    case isTrue above => simp [above]
    case isFalse above => simp [atLeast, Int.not_lt.mp above]

end

/-! ### The limit machine -/

/-- The run that a sample of class `c`, not the limit state's, leaves: the candidate's run lengthened, or a run
begun (R103 (2) and (3)). -/
def Runtime.runWith (rt : Runtime) (c : LimitClass) : Nat := if rt.candidate = some c then rt.run + 1 else 1

section
variable {p : Nat} {c : LimitClass} {rt : Runtime}

/-- A sample of the candidate's class lengthens the run (R103 (2)). -/
theorem Runtime.runWith_of_candidate (h : rt.candidate = some c) : rt.runWith c = rt.run + 1 := if_pos h

/-- A sample of a class that is not the candidate begins a run (R103 (3)). -/
theorem Runtime.runWith_of_not_candidate (h : rt.candidate ≠ some c) : rt.runWith c = 1 := if_neg h

/-- A sample of the limit state's class clears candidate and run (R103 (1)). -/
theorem limitStep_of_agrees (h : c = rt.limit) :
    limitStep p c rt = ({ rt with candidate := none, run := 0 }, false) := if_pos h

/-- A run that reaches the persistence changes the limit state and forces the sample (R103). -/
theorem limitStep_of_run_reaches (hc : c ≠ rt.limit) (hp : p ≤ rt.runWith c) :
    limitStep p c rt = ({ rt with limit := c, candidate := none, run := 0 }, true) :=
  (if_neg hc).trans (if_pos hp)

/-- A run below the persistence is kept with its candidate (R103). -/
theorem limitStep_of_run_below (hc : c ≠ rt.limit) (hp : rt.runWith c < p) :
    limitStep p c rt = ({ rt with candidate := some c, run := rt.runWith c }, false) :=
  (if_neg hc).trans (if_neg (Nat.not_le.mpr hp))

end

/-- Settles O27: the sample's class is compared with the limit state, then with the candidate, then the run with
the persistence. -/
theorem limitMachineStep : Obligations.LimitMachineStep := by
  unfold Obligations.LimitMachineStep
  refine ⟨fun l v ordered => ⟨classOf_eq_low_iff, classOf_eq_high_iff ordered, classOf_eq_inside_iff⟩, ?_⟩
  intro p c rt
  refine ⟨limitStep_of_agrees, ?lengthened_reaches, ?lengthened_below, ?begun_reaches, ?begun_below⟩
  case lengthened_reaches =>
    intro hc hcand hp
    exact limitStep_of_run_reaches hc (Runtime.runWith_of_candidate hcand ▸ hp)
  case lengthened_below =>
    intro hc hcand hp
    rw [← Runtime.runWith_of_candidate hcand] at hp ⊢
    rw [limitStep_of_run_below hc hp, ← hcand]
  case begun_reaches =>
    intro hc hcand hp
    exact limitStep_of_run_reaches hc (Runtime.runWith_of_not_candidate hcand ▸ hp)
  case begun_below =>
    intro hc hcand hp
    rw [← Runtime.runWith_of_not_candidate hcand] at hp ⊢
    exact limitStep_of_run_below hc hp

/-! ### The emission decision of a sample that is not forced -/

section
variable {v : Int} {rt : Runtime}

/-- EVERY emits every sample (R105). -/
theorem emitStep_every : emitStep .every false v rt = ({ rt with emitted := some v }, true) := rfl

/-- NTH emits the sample that makes the count n, and clears the count (R106). -/
theorem emitStep_nth_of_eq {n : Nat} (h : rt.nth + 1 = n) :
    emitStep (.nth n) false v rt = ({ rt with nth := 0, emitted := some v }, true) := by
  simp [emitStep, h]

/-- NTH counts a sample that does not make the count n (R106). -/
theorem emitStep_nth_of_ne {n : Nat} (h : rt.nth + 1 ≠ n) :
    emitStep (.nth n) false v rt = ({ rt with nth := rt.nth + 1 }, false) := by
  simp [emitStep, h]

/-- CHANGE emits a sample before which none was emitted (R107). -/
theorem emitStep_change_first {d : Nat} (h : rt.emitted = none) :
    emitStep (.change d) false v rt = ({ rt with emitted := some v }, true) := by
  simp [emitStep, h]

variable {d : Nat} {last : Int}

/-- CHANGE decides by the distance from the last emitted value (R107). -/
theorem emitStep_change (h : rt.emitted = some last) :
    emitStep (.change d) false v rt =
      if (d : Int) < |v - last| then ({ rt with emitted := some v }, true) else (rt, false) := by
  simp [emitStep, h]

/-- CHANGE emits a sample farther than the deadband from the last emitted value (R107). -/
theorem emitStep_change_beyond (h : rt.emitted = some last) (far : (d : Int) < |v - last|) :
    emitStep (.change d) false v rt = ({ rt with emitted := some v }, true) := by
  rw [emitStep_change h, if_pos far]

/-- CHANGE passes over a sample within the deadband of the last emitted value (R107). -/
theorem emitStep_change_within (h : rt.emitted = some last) (near : |v - last| ≤ (d : Int)) :
    emitStep (.change d) false v rt = (rt, false) := by
  rw [emitStep_change h, if_neg (Int.not_lt.mpr near)]

end

/-! ### The emission decision of a forced sample -/

section
variable {e : Emission} {v : Int} {rt rt' : Runtime} {emitted : Bool}

/-- The mode's decision and the runtime it leaves do not depend on forcing, which emits the sample besides
(R108). -/
theorem emitStep_byMode (e : Emission) (v : Int) (rt : Runtime) :
    ∃ rt' byMode, ∀ forced, emitStep e forced v rt =
      if byMode || forced then ({ rt' with emitted := some v }, true) else (rt', false) :=
  ⟨_, _, fun _ => rfl⟩

/-- A forced sample is emitted whatever the mode gives: its value becomes the last emitted one, and the rest of
the runtime is what the mode makes of it (R108, R109). -/
theorem emitStep_forced (h : emitStep e false v rt = (rt', emitted)) :
    emitStep e true v rt = ({ rt' with emitted := some v }, true) := by
  obtain ⟨kept, byMode, decided⟩ := emitStep_byMode e v rt
  rw [decided] at h ⊢
  cases byMode with
  | false =>
    obtain ⟨rfl, rfl⟩ := Prod.mk.inj h
    rfl
  | true =>
    obtain ⟨rfl, rfl⟩ := Prod.mk.inj h
    rfl

/-- A sample that the mode emits is emitted with the same runtime when it is forced (R108). -/
theorem emitStep_of_emits (last : rt'.emitted = some v) (h : emitStep e false v rt = (rt', true))
    (forced : Bool) : emitStep e forced v rt = (rt', true) := by
  cases forced with
  | false => exact h
  | true => rw [emitStep_forced h, ← last]

end

/-- Settles O28: each mode decides of the sample unforced, and forcing adds the emission alone. -/
theorem emissionDecision : Obligations.EmissionDecision := by
  unfold Obligations.EmissionDecision
  intro forced v rt
  refine ⟨emitStep_of_emits rfl emitStep_every forced, ?nth_makes, ?nth_below, ?change_first, ?change_beyond,
    ?change_within⟩
  case nth_makes =>
    intro n hn
    exact emitStep_of_emits rfl (emitStep_nth_of_eq hn) forced
  case nth_below =>
    intro n hn
    exact ⟨emitStep_forced (emitStep_nth_of_ne hn), emitStep_nth_of_ne hn⟩
  case change_first =>
    intro d hfirst
    exact emitStep_of_emits rfl (emitStep_change_first hfirst) forced
  case change_beyond =>
    intro d last hlast far
    exact emitStep_of_emits rfl (emitStep_change_beyond hlast far) forced
  case change_within =>
    intro d last hlast near
    exact ⟨emitStep_change_within hlast near, emitStep_forced (emitStep_change_within hlast near)⟩

end Sys2Proof.Machine
end

section
/-! PROOFS. What every step upholds whatever the commands were before it: the laws of the links, of the table
pool, of the banks, of receivers and rows, and of the evaluation unit. Said once for each operation as a relation
that composes; the obligations O53 to O56 and O59 are its fields. -/

namespace Sys2Proof.Machine

/-- The profiles, the receivers and the rows keep their counts within their states. -/
def State.CountsLawful (s : State) : Prop := s.ProfilesLawful ∧ s.ReceiversLawful ∧ s.RowsLawful

/-- `u` has each of these laws when `s` has it. -/
structure Upholds (s u : State) : Prop where
  links : s.LinksLawful → u.LinksLawful
  pool : s.PoolConserved → u.PoolConserved
  store : s.StoreLawful → u.StoreLawful
  counts : s.CountsLawful → u.CountsLawful
  evaluation : s.EvaluationLawful → u.EvaluationLawful

theorem Upholds.refl (s : State) : Upholds s s := ⟨id, id, id, id, id⟩

theorem Upholds.trans {s u v : State} (h : Upholds s u) (k : Upholds u v) : Upholds s v :=
  ⟨k.links ∘ h.links, k.pool ∘ h.pool, k.store ∘ h.store, k.counts ∘ h.counts, k.evaluation ∘ h.evaluation⟩

/-- A fold of steps that uphold the laws upholds them. -/
theorem Upholds.foldl {α : Type} (step : State → α → State) (h : ∀ s a, Upholds s (step s a)) (xs : List α) :
    ∀ s, Upholds s (xs.foldl step s) := by
  induction xs with
  | nil => exact Upholds.refl
  | cons x xs ih => exact fun s => (h s x).trans (ih _)

/-! ### Changes that no law looks at -/

/-- The laws look at neither the event unit, the order unit, the free values nor the commands that wait. -/
theorem Upholds.aside (s : State) (ev : EventUnit) (od : OrderUnit) (d : Nat) (p : List Instr) :
    Upholds s { s with events := ev, orders := od, draws := d, pending := p } := ⟨id, id, id, id, id⟩

theorem setEvents_upholds (s : State) (ev : EventUnit) : Upholds s (s.setEvents ev) := Upholds.aside s _ _ _ _

theorem setOrders_upholds (s : State) (od : OrderUnit) : Upholds s (s.setOrders od) := Upholds.aside s _ _ _ _

theorem draw_upholds (s : State) : Upholds s s.draw := Upholds.aside s _ _ _ _

/-! ### What trackers and switch control do -/

/-- The table pool counts bank lengths alone. -/
theorem poolConserved_of_banks {s u : State}
    (hb : ∀ f, (u.format f).bankA = (s.format f).bankA ∧ (u.format f).bankB = (s.format f).bankB)
    (hs : u.freeSlots = s.freeSlots) (hp : u.freeParams = s.freeParams) (h : s.PoolConserved) :
    u.PoolConserved := by
  simpa only [State.PoolConserved, State.heldSlots, State.heldParams, hb, hs, hp] using h

/-- Counts of receivers stay within their states when nothing but counters changes. -/
theorem Keeps.counts {s u : State} (k : Keeps s u) (h : s.CountsLawful) : u.CountsLawful := by
  obtain ⟨profiles, receivers, rows⟩ := h
  refine ⟨fun t => ?_, fun t => ?_, k.rows rows⟩
  · obtain ⟨c, hc⟩ := k.receivers t
    rw [hc]
    exact profiles t
  · obtain ⟨c, hc⟩ := k.receivers t
    rw [hc]
    exact receivers t

/-- What the trackers and the switch control do upholds every law. -/
theorem Keeps.upholds {s u : State} (k : Keeps s u) : Upholds s u where
  links := k.links
  pool := poolConserved_of_banks k.banks (by rw [k.frame]) (by rw [k.frame])
  store := k.store
  counts := k.counts
  evaluation := k.evaluation

/-! ### Receivers -/

/-- A receiver replaced by one of the same profile, lawful when the first was. -/
theorem setReceiver_upholds {s : State} {t : Trunk} {y : Receiver}
    (hp : s.ProfilesLawful → y.profile.Lawful) (hl : (s.receiver t).Lawful → y.Lawful) :
    Upholds s (s.setReceiver t y) where
  links := id
  pool := id
  store := id
  counts := by
    rintro ⟨profiles, receivers, rows⟩
    refine ⟨fun k => ?_, fun k => ?_, rows⟩
    · rw [setReceiver_receiver]
      split
      · exact hp profiles
      · exact profiles k
    · rw [setReceiver_receiver]
      split
      · exact hl (receivers t)
      · exact receivers k
  evaluation := id

/-- The same with TRUNK_SYNC where the synchronizer state is another. -/
theorem changeReceiver_upholds {s : State} {t : Trunk} {y : Receiver}
    (hp : s.ProfilesLawful → y.profile.Lawful) (hl : (s.receiver t).Lawful → y.Lawful) :
    Upholds s (changeReceiver t y s) := by
  unfold changeReceiver
  split
  · exact setReceiver_upholds hp hl
  · exact (setReceiver_upholds hp hl).trans (postEvent_keeps _ _ _ _ _).upholds

/-- A receiver that takes a frame at a boundary, its counts within the state it enters, is lawful. -/
theorem Receiver.takeFrame_lawful {x : Receiver} (e : Nat) {state : SyncState} {hits misses : Nat}
    {frame : Option Collection} (he : x.profile.enable = true) (hb : state.atBoundary = true)
    (hv : if state = .verify then 1 ≤ hits ∧ hits < x.profile.verify else hits = 0)
    (hf : if state = .flywheel then 1 ≤ misses ∧ misses < x.profile.flywheel else misses = 0)
    (hc : ∀ c ∈ frame, (state = .locked ∧ c.mark = false) ∨ (state = .flywheel ∧ c.mark = true)) :
    (x.takeFrame e state hits misses frame).Lawful := by
  refine ⟨?_, fun (h : state ≠ .verify) => ?_, fun (h : state ≠ .flywheel) => ?_,
    fun (h : state = .verify) => ?_, fun (h : state = .flywheel) => ?_, ?_, hc⟩
  · have notOff : state ≠ .off := fun h => by simp [h, SyncState.atBoundary] at hb
    simp [takeFrame, notOff, he]
  · rw [if_neg h] at hv; exact hv
  · rw [if_neg h] at hf; exact hf
  · rw [if_pos h] at hv; exact hv
  · rw [if_pos h] at hf; exact hf
  · simp [takeFrame, hb]

/-- A receiver that enters SEARCH after a miss is lawful. -/
theorem Receiver.searchAfter_lawful {x : Receiver} (e : Nat) (he : x.profile.enable = true) :
    (x.searchAfter e).Lawful := by
  refine ⟨?_, ?_, ?_, ?_, ?_, ?_, ?_⟩ <;> simp [searchAfter, he, SyncState.atBoundary]

/-- A lawful receiver that is not OFF is enabled (R5). -/
theorem Receiver.Lawful.enabled {x : Receiver} (h : x.Lawful) (hs : x.sync ≠ .off) : x.profile.enable = true := by
  have := mt h.1.mpr hs
  simpa using this

/-- A candidate that matches in SEARCH leaves a lawful receiver. -/
theorem Receiver.candidateStep_lawful {x : Receiver} (e : Nat) (h : x.Lawful) (hs : x.sync = .search) :
    (x.candidateStep e).Lawful := by
  have enabled : x.profile.enable = true := h.enabled (by simp [hs])
  unfold Receiver.candidateStep
  split
  next hv => exact takeFrame_lawful e enabled rfl ⟨le_refl 1, hv⟩ rfl (by simp)
  · exact takeFrame_lawful e enabled rfl rfl rfl (by simp [collect])

/-- A hit or a miss at a boundary leaves a lawful receiver. -/
theorem Receiver.boundaryStep_lawful {x : Receiver} (e : Nat) (hit : Bool) (h : x.Lawful) :
    (x.boundaryStep e hit).Lawful := by
  have enabled : x.sync ≠ .off → x.profile.enable = true := h.enabled
  unfold Receiver.boundaryStep
  split
  next hs =>
    split
    next hv => exact takeFrame_lawful e (enabled (by simp [hs])) rfl ⟨by omega, hv⟩ rfl (by simp)
    · exact takeFrame_lawful e (enabled (by simp [hs])) rfl rfl rfl (by simp [collect])
  next hs => exact searchAfter_lawful e (enabled (by simp [hs]))
  next hs => exact takeFrame_lawful e (enabled (by simp [hs])) rfl rfl rfl (by simp [collect])
  next hs =>
    split
    next hf => exact takeFrame_lawful e (enabled (by simp [hs])) rfl rfl ⟨le_refl 1, hf⟩ (by simp [collect])
    · exact searchAfter_lawful e (enabled (by simp [hs]))
  next hs => exact takeFrame_lawful e (enabled (by simp [hs])) rfl rfl rfl (by simp [collect])
  next hs =>
    split
    next hf => exact takeFrame_lawful e (enabled (by simp [hs])) rfl rfl ⟨by omega, hf⟩ (by simp [collect])
    · exact searchAfter_lawful e (enabled (by simp [hs]))
  · exact h
  · exact h

/-- The profile stays through a comparison. -/
theorem Receiver.boundaryStep_profile (x : Receiver) (e : Nat) (hit : Bool) :
    (x.boundaryStep e hit).profile = x.profile := by
  unfold Receiver.boundaryStep
  split
  · split <;> rfl
  · rfl
  · rfl
  · split <;> rfl
  · rfl
  · split <;> rfl
  · rfl
  · rfl

/-- A reinitialized receiver is lawful (R19). -/
theorem Receiver.reinit_lawful (x : Receiver) (p : Profile) : (x.reinit p).Lawful := by
  cases hp : p.enable <;> refine ⟨?_, ?_, ?_, ?_, ?_, ?_, ?_⟩ <;> simp [reinit, hp, SyncState.atBoundary]

/-! ### The commands that trunk bits bring -/

theorem syncCandidate_upholds (t : Trunk) (start : Nat) (bits : Window) (s : State) :
    Upholds s (syncCandidate t start bits s) := by
  unfold syncCandidate
  dsimp only
  split
  next hs =>
    split
    · refine changeReceiver_upholds (fun h => ?_) (fun h => Receiver.candidateStep_lawful start h hs.1)
      unfold Receiver.candidateStep
      split
      · exact h t
      · exact h t
    · exact setReceiver_upholds (fun h => h t) id
  · exact Upholds.refl s

theorem boundaryComparison_upholds (t : Trunk) (bits : Window) (s : State) :
    Upholds s (boundaryComparison t bits s) := by
  unfold boundaryComparison
  dsimp only
  split
  · exact Upholds.refl s
  next e _ =>
    split
    · have changed : Upholds s (changeReceiver t ((s.receiver t).compared e bits) s) := by
        refine changeReceiver_upholds (fun h => ?_) (fun h => Receiver.boundaryStep_lawful e _ h)
        unfold Receiver.compared
        rw [Receiver.boundaryStep_profile]
        exact h t
      split
      · exact changed.trans (trackerEnded_keeps t _).upholds
      · exact changed
    · exact Upholds.refl s

theorem markerMatch_upholds (t : Trunk) (start : Nat) (bits : BitVec 32) (s : State) :
    Upholds s (markerMatch t start bits s) := by
  unfold markerMatch
  dsimp only
  split
  · exact setReceiver_upholds (fun h => h t) id
  · exact Upholds.refl s

/-- The end of an order frame leaves a lawful receiver. -/
theorem Receiver.orderEnded_lawful {x : Receiver} (last : Nat) (h : x.Lawful) : (x.orderEnded last).Lawful := by
  obtain ⟨hoff, hhits, hmisses, hverify, hflywheel, hboundary, hframe⟩ := h
  unfold Receiver.orderEnded
  split
  next hb => exact ⟨hoff, hhits, hmisses, hverify, hflywheel, by simp [seen, hb], hframe⟩
  · exact ⟨hoff, hhits, hmisses, hverify, hflywheel, hboundary, hframe⟩

theorem minorFrame_upholds (t : Trunk) (words : List Word) (s : State) : Upholds s (minorFrame t words s) := by
  unfold minorFrame
  dsimp only
  split
  · exact Upholds.refl s
  · split
    · refine Upholds.trans ?_ (trackerFrame_keeps _ _ _ _).upholds
      refine setReceiver_upholds (fun h => h t) ?_
      rintro ⟨hoff, hhits, hmisses, hverify, hflywheel, hboundary, -⟩
      exact ⟨hoff, hhits, hmisses, hverify, hflywheel, hboundary, by simp⟩
    · exact Upholds.refl s

/-! ### Order frames -/

/-- An event placed, of whatever kind. -/
theorem placeEvent_keeps (l : Link) (r : Record) (s : State) : Keeps s (placeEvent l r s) := by
  apply Keeps.ofLinks
  · obtain ⟨ls, n, e⟩ := placeEvent_frame l r s
    rw [e]
  · exact fun h => placeEvent_linksLawful h _ _
  · exact fun k a b => placeEvent_full _ _ _ _ a b

theorem postOrdersShed_upholds (t : Trunk) (h : Word) (s : State) : Upholds s (postOrdersShed t h s) := by
  unfold postOrdersShed
  split
  · exact (setEvents_upholds s _).trans (placeEvent_keeps _ _ _).upholds
  · exact Upholds.refl s

theorem postOrderRefused_upholds (t : Trunk) (h : Word) (s : State) : Upholds s (postOrderRefused t h s) := by
  unfold postOrderRefused
  split
  · exact (setEvents_upholds s _).trans (placeEvent_keeps _ _ _).upholds
  · exact Upholds.refl s

theorem takeNext_upholds (s : State) : Upholds s (takeNext s) := by
  obtain ⟨e, q, b, h⟩ := takeNext_frame s
  rw [h]
  exact Upholds.aside s _ _ _ _

theorem handOrder_upholds (o : QueuedOrder) (s : State) : Upholds s (handOrder o s) := by
  unfold handOrder
  split
  · have armed : Upholds s (armRefusal o.trunk s) := setEvents_upholds s _
    refine armed.trans ?_
    dsimp only
    split
    · exact Upholds.refl _
    · unfold roomTest
      split
      · exact (setOrders_upholds _ _).trans (takeNext_upholds _)
      · exact (onCounters_keeps _ _ _).upholds.trans (postOrdersShed_upholds _ _ _)
  · exact (onCounters_keeps _ _ _).upholds.trans (postOrderRefused_upholds _ _ _)

theorem orderFrame_upholds (t : Trunk) (w : OrderFrame) (s : State) : Upholds s (orderFrame t w s) := by
  unfold orderFrame
  dsimp only
  split
  · exact Upholds.refl s
  next m _ =>
    split
    · have ended : Upholds s
          (s.setReceiver t ((s.receiver t).orderEnded (m + 16 * (w.body.length + 5)))) := by
        refine setReceiver_upholds (fun h => ?_) (Receiver.orderEnded_lawful _)
        unfold Receiver.orderEnded
        split
        · exact h t
        · exact h t
      split
      · exact ended.trans ((onCounters_keeps _ _ _).upholds.trans (handOrder_upholds _ _))
      · exact ended.trans (onCounters_keeps _ _ _).upholds
    · exact Upholds.refl s

theorem orderFrames_upholds (frames : Vector (Option OrderFrame) 4) (s : State) :
    Upholds s (orderFrames frames s) := by
  refine Upholds.foldl _ (fun u t => ?_) trunkList s
  split
  · exact Upholds.refl u
  · exact orderFrame_upholds _ _ _

/-! ### Links -/

/-- A link replaced by one that keeps its laws. -/
theorem setLink_upholds {s : State} {l : Link} {x : LinkTx}
    (h : (s.link l).Lawful ∧ (s.link l).Scheduled → x.Lawful ∧ x.Scheduled) : Upholds s (s.setLink l x) where
  links hs := setLink_linksLawful hs l (h (hs l))
  pool := id
  store := id
  counts := id
  evaluation := id

theorem giveNotice_upholds (l : Link) (n : RoomNotice) (s : State) : Upholds s (giveNotice l n s) := by
  obtain ⟨k, h⟩ := giveNotice_frame l n s
  rw [h]
  exact Upholds.aside s _ _ _ _

theorem linkUp_upholds (l : Link) (s : State) : Upholds s (linkUp l s) := by
  unfold linkUp
  split
  next hd => exact setLink_upholds (fun h => LinkTx.goUp_lawful h.1 hd)
  · exact Upholds.refl s

theorem linkDown_upholds (l : Link) (s : State) : Upholds s (linkDown l s) := by
  unfold linkDown
  split
  · exact Upholds.refl s
  · exact (setLink_upholds (fun h => LinkTx.goDown_lawful h.1)).trans (giveNotice_upholds _ _ _)

/-- The links change by themselves: the other laws do not look at them. -/
theorem Upholds.ofLinks {s u : State} (hl : s.LinksLawful → u.LinksLawful)
    (hf : u = { s with
      links := u.links, events := u.events, orders := u.orders, draws := u.draws, pending := u.pending }) :
    Upholds s u where
  links := hl
  pool := by rw [hf]; exact id
  store := by rw [hf]; exact id
  counts := by rw [hf]; exact id
  evaluation := by rw [hf]; exact id

theorem expireTimer_upholds (l : Link) (s : State) : Upholds s (expireTimer l s) := by
  refine Upholds.ofLinks (fun h => expireTimer_linksLawful h l) ?_
  obtain ⟨ls, n, k, h⟩ := expireTimer_frame l s
  rw [h]

theorem recordSent_upholds (l : Link) (s : State) : Upholds s (recordSent l s) := by
  have sent : Upholds s (s.setLink l (s.link l).sent) := setLink_upholds (fun h => LinkTx.sent_lawful h.1 h.2)
  unfold recordSent
  split
  · exact Upholds.refl s
  · exact sent
  · exact sent.trans (giveNotice_upholds _ _ _)

end Sys2Proof.Machine
end

section
/-! PROOFS. What the orders uphold: replies, and the effects of each order of chapter 10 on the laws of links,
pool, banks, receivers, rows and evaluation unit; and from these the obligations O53 to O56 and O59. -/

namespace Sys2Proof.Machine

/-! ### Replies and the carrying out of an order -/

/-- Placing reply records upholds the laws. -/
theorem placeReplies_upholds (o : QueuedOrder) (final : Record) (later rs : List Record) (s : State) :
    Upholds s (placeReplies o final later rs s) := by
  refine Upholds.ofLinks (fun h => placeReplies_linksLawful o final later rs s h) ?_
  obtain ⟨ls, e, q, n, m, b, h⟩ := placeReplies_frame o final later rs s
  rw [h]

/-- A relation between states that composes and holds across everything that a reply changes. -/
structure Composes (R : State → State → Prop) : Prop where
  refl : ∀ s, R s s
  trans : ∀ {s u v}, R s u → R u v → R s v
  draw : ∀ s, R s s.draw
  orders : ∀ s od, R s (s.setOrders od)
  replies : ∀ o final later rs s, R s (placeReplies o final later rs s)

section
variable {R : State → State → Prop} (hR : Composes R)
include hR

theorem Composes.foldl {α : Type} {step : State → α → State} (h : ∀ s a, R s (step s a)) (xs : List α) :
    ∀ s, R s (xs.foldl step s) := by
  induction xs with
  | nil => exact hR.refl
  | cons x xs ih => exact fun s => hR.trans (h s x) (ih _)

/-- An answer that follows some effects. -/
theorem Composes.answer {s u : State} (h : R s u) (o : QueuedOrder) (rs : List Record) :
    R s (sendRecords o rs u.draw) :=
  hR.trans (hR.trans h (hR.draw u)) (hR.replies _ _ _ _ _)

theorem Composes.takeNotice (n : Nat) (s : State) : R s (takeNotice n s) := by
  unfold Machine.takeNotice
  split
  · dsimp only
    split
    · exact hR.trans (hR.orders s _) (hR.replies _ _ _ _ _)
    · exact hR.trans (hR.orders s _) (hR.replies _ _ _ _ _)
  · exact hR.refl s

theorem Composes.unknownOrder (s : State) : R s (unknownOrder s) := by
  unfold Machine.unknownOrder
  split
  · split
    · exact hR.refl s
    · exact hR.answer (hR.refl s) _ _
  · exact hR.refl s
  · exact hR.refl s
  · exact hR.refl s
  · exact hR.refl s
  · exact hR.refl s

/-- Carrying out an order of one record, given what its effects do. -/
theorem Composes.carryOut {code : Nat} {perform : QueuedOrder → State → State × Reply}
    (h : ∀ o s, R s (perform o s).1) (s : State) : R s (carryOut code perform s) := by
  obtain e | ⟨o, rs, -, e⟩ | ⟨o, -, e⟩ := carryOut_cases code perform s <;> rw [e]
  · exact hR.refl s
  · exact hR.replies _ _ _ _ _
  · exact hR.answer (h o s) _ _

/-- Carrying out a reading. -/
theorem Composes.carryOutUpTo {n code : Nat} {perform : QueuedOrder → State → State × Reply}
    (h : ∀ o s, (perform o s).1 = s) (s : State) : R s (carryOutUpTo n code perform s) := by
  obtain e | ⟨o, final, later, rs, -, e⟩ | ⟨o, -, e⟩ := carryOutUpTo_cases n code perform s <;> rw [e]
  · exact hR.refl s
  · exact hR.replies _ _ _ _ _
  · rw [h]
    exact hR.trans (hR.draw s) (hR.replies _ _ _ _ _)

/-- The steps of an order that begins with the switch control's part, given what its last effect does. -/
theorem Composes.runSettling {cause : SwitchCause} {finish : QueuedOrder → State → State × Reply}
    (hc : ∀ s f, R s (settleFormat cause s f)) (hf : ∀ o s, R s (finish o s).1) (o : QueuedOrder) (n : Nat)
    (left : List Slot) (s : State) : R s (runSettling cause finish o n left s) := by
  obtain ⟨u, rfl, e⟩ | ⟨u, rfl, e⟩ := runSettling_cases cause finish o n left s <;> rw [e]
  · exact hR.trans (hR.foldl hc _ s) (hR.orders _ _)
  · exact hR.answer (hR.trans (hR.foldl hc left s) (hf o _)) _ _

/-- Carrying out such an order. -/
theorem Composes.carryOutSettling {n code : Nat} {cause : SwitchCause}
    {check : QueuedOrder → State → Except Reply (List Slot)} {finish : QueuedOrder → State → State × Reply}
    (hc : ∀ s f, R s (settleFormat cause s f)) (hf : ∀ o s, R s (finish o s).1) (s : State) :
    R s (carryOutSettling n code cause check finish s) := by
  obtain e | ⟨o, rs, -, e⟩ | ⟨o, rs, -, e⟩ | ⟨o, fs, -, -, e⟩ | ⟨o, left, -, -, e⟩ :=
    carryOutSettling_cases n code cause check finish s <;> rw [e]
  · exact hR.refl s
  · exact hR.replies _ _ _ _ _
  · exact hR.answer (hR.refl s) _ _
  · exact hR.runSettling hc hf _ _ _ s
  · exact hR.runSettling hc hf _ _ _ s

/-- The steps of RESTART, given what each does. -/
theorem Composes.runRestart {arrived : Vector Nat 4} (h : ∀ s x, R s (restartStep arrived s x))
    (o : QueuedOrder) (n : Nat) (left : List RestartStep) (s : State) : R s (runRestart o arrived n left s) := by
  induction n generalizing left s with
  | zero =>
    cases left with
    | nil => exact hR.replies _ _ _ _ _
    | cons x rest => exact hR.orders s _
  | succ n ih =>
    match left with
    | [] => exact hR.replies _ _ _ _ _
    | [x] => exact hR.trans (h s x) (hR.replies _ _ _ _ _)
    | x :: y :: rest => exact hR.trans (h s x) (ih _ _)

theorem Composes.restartOrder {arrived : Vector Nat 4} (h : ∀ s x, R s (restartStep arrived s x)) (n : Nat)
    (s : State) : R s (restartOrder n arrived s) := by
  unfold Machine.restartOrder
  split
  · obtain e | ⟨o, rs, -, e⟩ | ⟨o, -, e⟩ := takeUp_cases 0x3F
      (fun o u => Machine.runRestart o arrived n restartSteps u) s <;> rw [e]
    · exact hR.refl s
    · exact hR.replies _ _ _ _ _
    · exact hR.runRestart h _ _ _ s
  · exact hR.runRestart h _ _ _ s
  · exact hR.refl s
  · exact hR.refl s
  · exact hR.refl s
  · exact hR.refl s

end

/-- The laws of `Upholds` look at nothing that a reply changes but the links, which it keeps lawful. -/
theorem upholds_composes : Composes Upholds where
  refl := Upholds.refl
  trans := Upholds.trans
  draw := draw_upholds
  orders := setOrders_upholds
  replies := placeReplies_upholds

/-- The switch control's part of an order upholds the laws. -/
theorem settleFormat_upholds (cause : SwitchCause) (s : State) (f : Slot) : Upholds s (settleFormat cause s f) :=
  (settleFormat_keeps cause s f).upholds

/-! ### SET_TRUNK -/

/-- No word out of range: every test has passed. -/
theorem rangeFailure_eq_none {rs : List (Nat × Bool)} : rangeFailure rs = none ↔ ∀ x ∈ rs, x.2 = true := by
  simp [rangeFailure]

/-- The limits of a range. -/
theorem within_eq_true {n lo hi : Nat} : within n lo hi = true ↔ lo ≤ n ∧ n ≤ hi := by
  simp [within]

/-- With every word in range SET_TRUNK carries a lawful profile (R1, R160). -/
theorem profileOf_lawful {o : QueuedOrder} (h : rangeFailure (setTrunkRanges o) = none) :
    (profileOf o).Lawful := by
  rw [rangeFailure_eq_none] at h
  simp only [setTrunkRanges, List.forall_mem_cons, Bool.and_eq_true, Bool.or_eq_true, within_eq_true,
    decide_eq_true_eq, beq_iff_eq] at h
  obtain ⟨-, -, hwidth, hwords, ⟨⟨hsync, hless⟩, hbits⟩, hpattern, htol, hverify, hfly, htag, -⟩ := h
  refine .inr ⟨hwidth.1, hwidth.2, hwords.1, hwords.2, hsync.1, hsync.2, hless, hbits.1, hbits.2, hpattern,
    htol.2, hverify.1, hverify.2, hfly.1, hfly.2, htag.imp_right (fun k => ⟨k.1, k.2⟩)⟩

/-- The reinitialization of a trunk with a lawful profile upholds the laws. -/
theorem reinitTrunk_upholds {t : Trunk} {p : Profile} {s : State} (hp : s.ProfilesLawful → p.Lawful)
    (arrived : Nat) : Upholds s (reinitTrunk t p arrived s) := by
  have drained := drainWaiting_keeps t s
  have profiles : (drainWaiting t s).ProfilesLawful → s.ProfilesLawful := by
    intro h k
    obtain ⟨c, hc⟩ := drained.receivers k
    have := h k
    rwa [hc] at this
  unfold reinitTrunk
  dsimp only
  refine drained.upholds.trans (Upholds.trans ?_
    ((endDelivery_keeps t .order _).trans (onCounters_keeps t _ _)).upholds)
  exact changeReceiver_upholds (fun h => hp (profiles h)) (fun _ => Receiver.reinit_lawful _ _)

theorem setTrunkFinish_upholds (arrived : Nat) (o : QueuedOrder) (s : State) :
    Upholds s (setTrunkFinish arrived o s).1 := by
  obtain e | ⟨t, ht, e⟩ := setTrunkFinish_cases arrived o s <;> rw [e]
  · exact Upholds.refl s
  · exact reinitTrunk_upholds (fun _ => profileOf_lawful (setTrunkTarget_ok.mp ht).1) arrived

/-! ### Rows -/

/-- A row replaced by a lawful one, or made vacant. -/
theorem setRow_upholds {s : State} {t : Trunk} {r : RowIx} {x : Option Row} (h : ∀ y ∈ x, y.Lawful) :
    Upholds s (s.setRow t r x) where
  links := id
  pool := id
  store := id
  counts := by
    rintro ⟨profiles, receivers, rows⟩
    refine ⟨profiles, receivers, fun t' r' y hy => ?_⟩
    rw [setRow_row] at hy
    split at hy
    · exact h y hy
    · exact rows t' r' y hy
  evaluation := id

/-- BIND_SOURCE changes nothing, or makes a vacant row, 0 on an untagged trunk, into one bound to an unbound
format slot, with a tag value that no other row of the trunk has (R162). -/
theorem bindTo_cases (t : Trunk) (r : RowIx) (f : Slot) (tag : Nat) (s : State) :
    (bindTo t r f tag s).1 = s ∨
    (((s.receiver t).profile.tagPos = 0 → r = 0) ∧ s.row t r = none ∧ s.boundRow f = none ∧
      ((s.receiver t).profile.tagPos ≠ 0 → tagHolder t r tag s = none) ∧
      (bindTo t r f tag s).1 =
        s.setRow t r (some (boundRowOf (if (s.receiver t).profile.tagPos = 0 then none else some tag) f
          (s.activeBank f).committed))) := by
  unfold bindTo
  dsimp only
  split
  · exact .inl rfl
  next hrow =>
  split
  · exact .inl rfl
  split
  · exact .inl rfl
  next hvacant =>
  split
  · exact .inl rfl
  · exact .inl rfl
  next htag hbound =>
  split
  · exact .inl rfl
  · refine .inr ⟨fun h0 => by simpa [h0] using hrow, hvacant, hbound, fun h0 => ?_, rfl⟩
    rwa [if_neg h0] at htag

/-- BIND_SOURCE names a trunk, a row and a format slot, or changes nothing. -/
theorem bindSourceOrder_cases (o : QueuedOrder) (s : State) :
    (bindSourceOrder o s).1 = s ∨ ∃ t r f, (bindSourceOrder o s).1 = (bindTo t r f (o.arg 3) s).1 := by
  unfold bindSourceOrder
  split
  · exact .inl rfl
  · exact .inl rfl
  · exact .inl rfl
  · exact .inr ⟨_, _, _, rfl⟩

/-- A row just bound is lawful. -/
theorem boundRowOf_lawful (tag : Option Nat) (f : Slot) (committed : Bool) : (boundRowOf tag f committed).Lawful :=
  ⟨fun _ => rfl, fun _ => rfl⟩

theorem bindSourceOrder_upholds (o : QueuedOrder) (s : State) : Upholds s (bindSourceOrder o s).1 := by
  obtain e | ⟨t, r, f, e⟩ := bindSourceOrder_cases o s <;> rw [e]
  · exact Upholds.refl s
  obtain e | ⟨-, -, -, -, e⟩ := bindTo_cases t r f (o.arg 3) s <;> rw [e]
  · exact Upholds.refl s
  · exact setRow_upholds (by rintro y ⟨⟩; exact boundRowOf_lawful _ _ _)

theorem unbindFinish_upholds (o : QueuedOrder) (s : State) : Upholds s (unbindFinish o s).1 := by
  obtain e | ⟨t, r, x, -, e⟩ := unbindFinish_cases o s <;> rw [e]
  · exact Upholds.refl s
  · exact (breakContexts_keeps _ s).upholds.trans (setRow_upholds (by simp))

/-! ### Standby banks -/

/-- A standby bank replaced leaves the active bank. -/
theorem FormatSlot.withStandby_activeBank (x : FormatSlot) (b : Bank) (st : Standby) :
    (x.withStandby b st).activeBank = x.activeBank := by
  cases h : x.active <;> simp [withStandby, setBank, activeBank, bank, BankId.other, h]

/-- A standby bank replaced is the new one. -/
theorem FormatSlot.withStandby_standbyBank (x : FormatSlot) (b : Bank) (st : Standby) :
    (x.withStandby b st).standbyBank = b := by
  cases h : x.active <;> simp [withStandby, setBank, standbyBank, bank, BankId.other, h]

/-- The banks of a format slot are its active and its standby bank. -/
theorem FormatSlot.banks_cases (x : FormatSlot) :
    (x.bankA = x.activeBank ∧ x.bankB = x.standbyBank) ∨ (x.bankA = x.standbyBank ∧ x.bankB = x.activeBank) := by
  cases h : x.active <;> simp [standbyBank, activeBank, bank, BankId.other, h]

/-- The slot entries held once one format slot is another. -/
theorem heldSlots_setFormat (s : State) (f : Slot) (x : FormatSlot) :
    (s.setFormat f x).heldSlots + ((s.format f).bankA.slots.length + (s.format f).bankB.slots.length) =
      s.heldSlots + (x.bankA.slots.length + x.bankB.slots.length) := by
  fin_cases f <;> simp [State.heldSlots, slotList, setFormat_format] <;> omega

/-- The definitions held once one format slot is another. -/
theorem heldParams_setFormat (s : State) (f : Slot) (x : FormatSlot) :
    (s.setFormat f x).heldParams + ((s.format f).bankA.params.length + (s.format f).bankB.params.length) =
      s.heldParams + (x.bankA.params.length + x.bankB.params.length) := by
  fin_cases f <;> simp [State.heldParams, slotList, setFormat_format] <;> omega

/-- The standby bank of a format slot replaced, the pool taking what it held and giving what it holds now. -/
theorem setStandby_upholds {s : State} {f : Slot} {b : Bank} (st : Standby) {n m : Nat}
    (hb : (s.format f).standbyBank.Lawful → b.Lawful)
    (hn : n + b.slots.length = s.freeSlots + (s.format f).standbyBank.slots.length)
    (hm : m + b.params.length = s.freeParams + (s.format f).standbyBank.params.length) :
    Upholds s ((s.setFormat f ((s.format f).withStandby b st)).setFree n m) where
  links := id
  pool := by
    rintro ⟨slots, params⟩
    have heldS := heldSlots_setFormat s f ((s.format f).withStandby b st)
    have heldP := heldParams_setFormat s f ((s.format f).withStandby b st)
    have sameS : ∀ u : State, (u.setFree n m).heldSlots = u.heldSlots := fun _ => rfl
    have sameP : ∀ u : State, (u.setFree n m).heldParams = u.heldParams := fun _ => rfl
    have active := FormatSlot.withStandby_activeBank (s.format f) b st
    have standby := FormatSlot.withStandby_standbyBank (s.format f) b st
    unfold State.PoolConserved
    rw [sameS, sameP, setFree_freeSlots, setFree_freeParams]
    obtain ⟨a, c⟩ | ⟨a, c⟩ := (s.format f).banks_cases <;>
    obtain ⟨a', c'⟩ | ⟨a', c'⟩ := ((s.format f).withStandby b st).banks_cases <;>
    rw [a, c, a', c', active, standby] at heldS heldP <;> omega
  store := by
    intro h g
    rw [setFree_format, setFormat_format]
    split
    next hg =>
      subst hg
      have old := h f
      have active := FormatSlot.withStandby_activeBank (s.format f) b st
      have standby := FormatSlot.withStandby_standbyBank (s.format f) b st
      obtain ⟨a, c⟩ | ⟨a, c⟩ := (s.format f).banks_cases <;>
      obtain ⟨a', c'⟩ | ⟨a', c'⟩ := ((s.format f).withStandby b st).banks_cases <;>
      rw [a, c] at old <;> rw [a', c', active, standby]
      · exact ⟨old.1, hb old.2⟩
      · exact ⟨hb old.2, old.1⟩
      · exact ⟨old.2, hb old.1⟩
      · exact ⟨hb old.1, old.2⟩
    · exact h g
  counts := id
  evaluation := by
    intro h g
    have active : ((s.setFormat f ((s.format f).withStandby b st)).setFree n m).activeBank g = s.activeBank g := by
      rw [setFree_activeBank, setFormat_activeBank]
      split
      next hg => subst hg; exact FormatSlot.withStandby_activeBank _ _ _
      · rfl
    rw [active]
    exact h g

/-- A bank that holds nothing is lawful. -/
theorem Bank.empty_lawful : Bank.empty.Lawful := by
  simp [Bank.Lawful, Bank.empty]

theorem emptyStandby_upholds (f : Slot) (st : Standby) (s : State) : Upholds s (emptyStandby f st s) :=
  setStandby_upholds st (fun _ => Bank.empty_lawful) rfl rfl

theorem openStaging_upholds (f : Slot) (s : State) : Upholds s (openStaging f s) := by
  unfold openStaging
  split
  · exact emptyStandby_upholds _ _ _
  · refine (setFormat_keeps f _ s ?_ ?_ ?_).upholds <;> rfl
  · exact Upholds.refl s
  · exact Upholds.refl s

/-- A staging order upholds the laws when its content does. -/
theorem stagingOrder_upholds {content : Slot → State → State × Status × Word}
    (h : ∀ f s, Upholds s (content f s).1) (o : QueuedOrder) (s : State) :
    Upholds s (stagingOrder content o s).1 := by
  unfold stagingOrder
  split
  · exact Upholds.refl s
  · split
    · exact Upholds.refl s
    · exact (openStaging_upholds _ s).trans (h _ _)

theorem placeHeader_upholds (h : Header) (f : Slot) (s : State) : Upholds s (placeHeader h f s).1 := by
  unfold placeHeader
  split
  · exact Upholds.refl s
  next hh =>
    refine setStandby_upholds (n := s.freeSlots) (m := s.freeParams) (s.format f).standby ?_ rfl rfl
    rintro ⟨-, lawful⟩
    exact ⟨by rintro x ⟨⟩; exact hh, lawful⟩

/-! ### Slot maps -/

/-- A field of a word is below two to its length. -/
theorem field_lt (w : Word) (lo len : Nat) : field w lo len < 2 ^ len := BitVec.isLt _

/-- A slot entry read from words is in range (R43). -/
theorem slotEntryOf_inRange {w0 w1 w2 : Word} {e : SlotEntry} (h : slotEntryOf w0 w1 w2 = some e) :
    e.InRange := by
  unfold slotEntryOf at h
  dsimp only at h
  split at h
  next hc =>
    cases h
    simp only [Bool.and_eq_true, within_eq_true, decide_eq_true_eq] at hc
    obtain ⟨⟨⟨-, hpos⟩, hoffset⟩, -⟩ := hc
    have interval := field_lt w1 8 8
    have param := field_lt w2 0 12
    have piece := field_lt w2 14 2
    refine ⟨hpos.1, hpos.2, ?_, ?_, hoffset, ?_, ?_⟩ <;> simp only <;> omega
  · cases h

/-- Every entry of a STAGE_SLOTS body that can be read is in range. -/
theorem slotItems_inRange (ws : List Word) : ∀ e, some e ∈ slotItems ws → e.InRange := by
  induction ws using slotItems.induct with
  | case1 w0 w1 w2 rest ih =>
    intro e he
    rw [slotItems, List.mem_cons] at he
    obtain h | h := he
    · exact slotEntryOf_inRange h.symm
    · exact ih e h
  | case2 ws hws =>
    intro e he
    rw [slotItems] at he
    · simp at he
    · exact hws

/-- Which of two entries stands first (R44). -/
theorem slotBefore_iff {x y : SlotEntry} :
    slotBefore x y = true ↔
      x.pos < y.pos ∨ x.pos = y.pos ∧ (x.interval < y.interval ∨ x.interval = y.interval ∧ x.offset < y.offset) := by
  simp [slotBefore]

/-- The order of a slot map is transitive. -/
theorem slotBefore_trans {x y z : SlotEntry} (h : slotBefore x y = true) (k : slotBefore y z = true) :
    slotBefore x z = true := by
  rw [slotBefore_iff] at *
  omega

/-- Of two entries that do not overlap one stands before the other. -/
theorem slotBefore_of_not_overlaps {x y : SlotEntry} (h : overlaps x y = false) (hn : slotBefore x y ≠ true) :
    slotBefore y x = true := by
  by_contra hn'
  rw [ne_eq, slotBefore_iff] at hn
  rw [slotBefore_iff] at hn'
  have hpos : x.pos = y.pos := by omega
  have hint : x.interval = y.interval := by omega
  have hoff : x.offset = y.offset := by omega
  simp [overlaps, hpos, hint, hoff] at h

/-- The overlap test is symmetric. -/
theorem overlaps_symm (x y : SlotEntry) : overlaps x y = overlaps y x := by
  simp only [overlaps, Nat.gcd_comm y.interval x.interval, Bool.beq_comm (a := x.pos),
    Bool.beq_comm (a := x.offset % _)]

/-- An entry placed is one entry more. -/
theorem insertSlot_perm (e : SlotEntry) (xs : List SlotEntry) : (insertSlot e xs).Perm (e :: xs) := by
  induction xs with
  | nil => exact List.Perm.refl _
  | cons x xs ih =>
    unfold insertSlot
    split
    · exact List.Perm.refl _
    · exact (ih.cons x).trans (List.Perm.swap e x xs)

/-- An entry that overlaps none, placed into an ordered slot map, leaves it ordered (R44). -/
theorem insertSlot_ordered {e : SlotEntry} {xs : List SlotEntry} (hn : ∀ x ∈ xs, overlaps e x = false)
    (h : xs.Pairwise (fun x y => slotBefore x y = true)) :
    (insertSlot e xs).Pairwise (fun x y => slotBefore x y = true) := by
  induction xs with
  | nil => exact List.pairwise_singleton _ _
  | cons x xs ih =>
    rw [List.pairwise_cons] at h
    unfold insertSlot
    split
    next hb =>
      refine List.pairwise_cons.mpr ⟨fun y hy => ?_, List.pairwise_cons.mpr h⟩
      obtain rfl | hy := List.mem_cons.mp hy
      · exact hb
      · exact slotBefore_trans hb (h.1 y hy)
    next hb =>
      refine List.pairwise_cons.mpr ⟨fun y hy => ?_, ih (fun y hy => hn y (List.mem_cons_of_mem _ hy)) h.2⟩
      obtain rfl | hy := List.mem_cons.mp ((insertSlot_perm e xs).mem_iff.mp hy)
      · exact slotBefore_of_not_overlaps (hn x List.mem_cons_self) hb
      · exact h.1 y hy

/-- What R43 to R45 ask of a slot map. -/
structure SlotsLawful (xs : List SlotEntry) : Prop where
  inRange : ∀ e ∈ xs, e.InRange
  ordered : xs.Pairwise (fun x y => slotBefore x y = true)
  disjoint : xs.Pairwise (fun x y => overlaps x y = false)

/-- An entry in range that overlaps none can be placed. -/
theorem SlotsLawful.insert {e : SlotEntry} {xs : List SlotEntry} (h : SlotsLawful xs) (he : e.InRange)
    (hn : ∀ x ∈ xs, overlaps e x = false) : SlotsLawful (insertSlot e xs) where
  inRange x hx := by
    obtain rfl | hx := List.mem_cons.mp ((insertSlot_perm e xs).mem_iff.mp hx)
    · exact he
    · exact h.inRange x hx
  ordered := insertSlot_ordered hn h.ordered
  disjoint := by
    have symm : ∀ {x y : SlotEntry}, overlaps x y = false → overlaps y x = false :=
      fun {x y} k => (overlaps_symm y x).trans k
    exact ((insertSlot_perm e xs).pairwise_iff symm).mpr (List.pairwise_cons.mpr ⟨hn, h.disjoint⟩)

/-- The checks of STAGE_SLOTS passed: as many entries more, and the slot map lawful still (R54). -/
theorem addSlots_ok {items : List (Option SlotEntry)} (hi : ∀ e, some e ∈ items → e.InRange) :
    ∀ {i : Nat} {held slots : List SlotEntry}, addSlots i held items = .ok slots →
      slots.length = held.length + items.length ∧ (SlotsLawful held → SlotsLawful slots) := by
  induction items with
  | nil =>
    intro i held slots h
    cases h
    exact ⟨rfl, id⟩
  | cons item rest ih =>
    intro i held slots h
    cases item with
    | none => cases h
    | some e =>
      unfold addSlots at h
      split at h
      · cases h
      next hn =>
        obtain ⟨length, lawful⟩ := ih (fun e he => hi e (List.mem_cons_of_mem _ he)) h
        refine ⟨?_, fun k => lawful (k.insert (hi e List.mem_cons_self) (by simpa using hn))⟩
        rw [length, (insertSlot_perm e held).length_eq, List.length_cons, List.length_cons]
        omega

theorem placeSlots_upholds {items : List (Option SlotEntry)} (hi : ∀ e, some e ∈ items → e.InRange) (f : Slot)
    (s : State) : Upholds s (placeSlots items f s).1 := by
  unfold placeSlots
  dsimp only
  split
  · exact Upholds.refl s
  next slots hs =>
    obtain ⟨length, lawful⟩ := addSlots_ok hi hs
    split
    next room =>
      refine setStandby_upholds (s.format f).standby ?_ ?_ rfl
      · rintro ⟨header, inRange, ordered, disjoint, params⟩
        obtain ⟨inRange', ordered', disjoint'⟩ := lawful ⟨inRange, ordered, disjoint⟩
        exact ⟨header, inRange', ordered', disjoint', params⟩
      · simp only [length]
        omega
    · exact Upholds.refl s

/-! ### Parameter lists -/

/-- The emission part of words 1 and 2 is in range (R46). -/
theorem emissionOf_inRange {w1 w2 : Word} {e : Emission} (h : emissionOf w1 w2 = .ok e) : e.inRange = true := by
  have bound : w2.toNat < 65536 := w2.isLt
  unfold emissionOf at h
  split at h
  · cases h
  split at h
  · cases h; rfl
  split at h
  · split at h
    next hr => cases h; exact hr
    · cases h
  split at h
  · cases h
    simp only [Emission.inRange, decide_eq_true_eq]
    omega
  · cases h

/-- The limits part of words 1 and 3 to 5 is in range (R46). -/
theorem limitsOf_inRange {signed : Bool} {w1 w3 w4 w5 : Word} {l : Option Limits}
    (h : limitsOf signed w1 w3 w4 w5 = .ok l) : ∀ x ∈ l, x.InRange signed := by
  unfold limitsOf at h
  split at h
  · split at h
    · cases h
    next hlo =>
      split at h
      · cases h
      next hp =>
        cases h
        rintro x ⟨⟩
        have persistence := field_lt w1 0 8
        refine ⟨by simpa using hlo, ?_, ?_, ?_, ?_⟩
        · simp only; simp at hp; omega
        · simp only; omega
        · cases signed
          · exact Int.natCast_nonneg _
          · exact BitVec.le_toInt (w := 24) _
        · cases signed
          · have := (w4.extractLsb' 0 8 ++ w5 : BitVec 24).isLt
            simp only [hiOf, Bool.false_eq_true, if_false]
            omega
          · have := BitVec.toInt_lt (x := (w4.extractLsb' 0 8 ++ w5 : BitVec 24))
            simp only [hiOf, if_true]
            omega
  · cases h
    simp

/-- The fields that TUNE_PARAM reads are in range (R46, R165). -/
theorem tunedFieldsOf_inRange {signed : Bool} {w1 w2 w3 w4 w5 : Word} {x : TunedFields}
    (h : tunedFieldsOf signed w1 w2 w3 w4 w5 = .ok x) :
    x.emission.inRange = true ∧ ∀ l ∈ x.limits, l.InRange signed := by
  unfold tunedFieldsOf at h
  split at h
  · cases h
  · cases h
  next he hl =>
    cases h
    exact ⟨emissionOf_inRange he, limitsOf_inRange hl⟩

/-- A definition read from words is in range (R46). -/
theorem paramDefOf_inRange {w0 w1 w2 w3 w4 w5 : Word} {d : ParamDef}
    (h : paramDefOf w0 w1 w2 w3 w4 w5 = some d) : d.InRange := by
  unfold paramDefOf at h
  dsimp only at h
  split at h
  · cases h
  next x hx =>
    obtain ⟨emission, limits⟩ := tunedFieldsOf_inRange hx
    split at h
    next hp =>
      cases h
      rw [within_eq_true] at hp
      have number := field_lt w0 0 12
      refine ⟨?_, hp.1, hp.2, emission, limits⟩
      simp only [definedNumber]
      omega
    · cases h

/-- Every definition of a STAGE_PARAMS body that can be read is in range. -/
theorem paramItems_inRange (ws : List Word) : ∀ d, some d ∈ paramItems ws → d.InRange := by
  induction ws using paramItems.induct with
  | case1 w0 w1 w2 w3 w4 w5 rest ih =>
    intro d hd
    rw [paramItems, List.mem_cons] at hd
    obtain h | h := hd
    · exact paramDefOf_inRange h.symm
    · exact ih d h
  | case2 ws hws =>
    intro d hd
    rw [paramItems] at hd
    · simp at hd
    · exact hws

/-- A definition placed is one definition more. -/
theorem insertParam_perm (d : ParamDef) (xs : List ParamDef) : (insertParam d xs).Perm (d :: xs) := by
  induction xs with
  | nil => exact List.Perm.refl _
  | cons x xs ih =>
    unfold insertParam
    split
    · exact List.Perm.refl _
    · exact (ih.cons x).trans (List.Perm.swap d x xs)

/-- A definition of a new number, placed into an ordered parameter list, leaves it ordered (R47). -/
theorem insertParam_ordered {d : ParamDef} {xs : List ParamDef} (hn : ∀ x ∈ xs, x.number ≠ d.number)
    (h : xs.Pairwise (fun x y => x.number < y.number)) :
    (insertParam d xs).Pairwise (fun x y => x.number < y.number) := by
  induction xs with
  | nil => exact List.pairwise_singleton _ _
  | cons x xs ih =>
    rw [List.pairwise_cons] at h
    unfold insertParam
    split
    next hb =>
      refine List.pairwise_cons.mpr ⟨fun y hy => ?_, List.pairwise_cons.mpr h⟩
      obtain rfl | hy := List.mem_cons.mp hy
      · exact hb
      · exact hb.trans (h.1 y hy)
    next hb =>
      refine List.pairwise_cons.mpr ⟨fun y hy => ?_, ih (fun y hy => hn y (List.mem_cons_of_mem _ hy)) h.2⟩
      obtain rfl | hy := List.mem_cons.mp ((insertParam_perm d xs).mem_iff.mp hy)
      · have := hn x List.mem_cons_self
        omega
      · exact h.1 y hy

/-- What R46 and R47 ask of a parameter list. -/
structure ParamsLawful (xs : List ParamDef) : Prop where
  inRange : ∀ d ∈ xs, d.InRange
  ordered : xs.Pairwise (fun x y => x.number < y.number)

/-- The checks of STAGE_PARAMS passed: as many definitions more, and the parameter list lawful still (R55). -/
theorem addParams_ok {items : List (Option ParamDef)} (hi : ∀ d, some d ∈ items → d.InRange) :
    ∀ {i : Nat} {held params : List ParamDef}, addParams i held items = .ok params →
      params.length = held.length + items.length ∧ (ParamsLawful held → ParamsLawful params) := by
  induction items with
  | nil =>
    intro i held params h
    cases h
    exact ⟨rfl, id⟩
  | cons item rest ih =>
    intro i held params h
    cases item with
    | none => cases h
    | some d =>
      unfold addParams at h
      split at h
      · cases h
      next hn =>
        obtain ⟨length, lawful⟩ := ih (fun d hd => hi d (List.mem_cons_of_mem _ hd)) h
        refine ⟨?_, fun k => lawful ⟨fun x hx => ?_, insertParam_ordered (by simpa using hn) k.ordered⟩⟩
        · rw [length, (insertParam_perm d held).length_eq, List.length_cons, List.length_cons]
          omega
        · obtain rfl | hx := List.mem_cons.mp ((insertParam_perm d held).mem_iff.mp hx)
          · exact hi x List.mem_cons_self
          · exact k.inRange x hx

theorem placeParams_upholds {items : List (Option ParamDef)} (hi : ∀ d, some d ∈ items → d.InRange) (f : Slot)
    (s : State) : Upholds s (placeParams items f s).1 := by
  unfold placeParams
  dsimp only
  split
  · exact Upholds.refl s
  next params hs =>
    obtain ⟨length, lawful⟩ := addParams_ok hi hs
    split
    next room =>
      refine setStandby_upholds (s.format f).standby ?_ rfl ?_
      · rintro ⟨header, entries, before, apart, inRange, ordered⟩
        obtain ⟨inRange', ordered'⟩ := lawful ⟨inRange, ordered⟩
        exact ⟨header, entries, before, apart, inRange', ordered'⟩
      · simp only [length]
        omega
    · exact Upholds.refl s

theorem discardStageOrder_upholds (o : QueuedOrder) (s : State) : Upholds s (discardStageOrder o s).1 := by
  unfold discardStageOrder
  split
  · exact Upholds.refl s
  · unfold discardStage
    split
    · exact Upholds.refl s
    · dsimp only
      split
      · exact Upholds.refl s
      · exact emptyStandby_upholds _ _ _

/-! ### COMMIT and CANCEL_COMMIT -/

/-- The standby state and the probation of a format slot replaced. -/
theorem setStandbyState_keeps (f : Slot) (st : Standby) (s : State) :
    Keeps s (s.setFormat f { s.format f with standby := st }) := by
  refine setFormat_keeps f _ s ?_ ?_ ?_ <;> rfl

/-- COMMIT changes nothing, or arms or switches a STAGING standby that passes every check (R63 to R67). -/
theorem commitOrder_cases (o : QueuedOrder) (s : State) :
    (commitOrder o s).1 = s ∨
    ∃ f, (s.format f).standby = .staging ∧ commitFailure f (s.format f).standbyBank s = none ∧
      (boundLocked f s = true ∧ (commitOrder o s).1 = s.setFormat f { s.format f with standby := .armed } ∨
        boundLocked f s = false ∧ (commitOrder o s).1 = switchFormat f .immediate s) := by
  unfold commitOrder
  split
  · exact .inl rfl
  next f _ =>
  unfold commitFormat
  split
  · exact .inl rfl
  · exact .inl rfl
  · exact .inl rfl
  next hs =>
  split
  · exact .inl rfl
  next hc =>
  refine .inr ⟨f, hs, hc, ?_⟩
  unfold applyCommit
  dsimp only
  split
  next hl => exact .inl ⟨hl, rfl⟩
  next hl => exact .inr ⟨by simpa using hl, rfl⟩

theorem commitOrder_upholds (o : QueuedOrder) (s : State) : Upholds s (commitOrder o s).1 := by
  obtain e | ⟨f, -, -, ⟨-, e⟩ | ⟨-, e⟩⟩ := commitOrder_cases o s <;> rw [e]
  · exact Upholds.refl s
  · exact (setStandbyState_keeps _ _ _).upholds
  · exact (switchFormat_keeps _ _ _).upholds

/-- CANCEL_COMMIT changes nothing, or takes an ARMED standby back to STAGING (R68). -/
theorem cancelCommitOrder_cases (o : QueuedOrder) (s : State) :
    (cancelCommitOrder o s).1 = s ∨
    ∃ f, (s.format f).standby = .armed ∧
      (cancelCommitOrder o s).1 = s.setFormat f { s.format f with standby := .staging } := by
  unfold cancelCommitOrder
  split
  · exact .inl rfl
  · split
    next ha => exact .inr ⟨_, ha, rfl⟩
    · exact .inl rfl

theorem cancelCommitOrder_upholds (o : QueuedOrder) (s : State) : Upholds s (cancelCommitOrder o s).1 := by
  obtain e | ⟨f, -, e⟩ := cancelCommitOrder_cases o s <;> rw [e]
  · exact Upholds.refl s
  · exact (setStandbyState_keeps _ _ _).upholds

/-! ### TUNE_PARAM -/

/-- TUNE_PARAM changes nothing, or replaces the definition of a number in an active bank by one of the same number
whose tuned fields are in range (R80, R165). -/
theorem tuneParamOrder_cases (o : QueuedOrder) (s : State) :
    (tuneParamOrder o s).1 = s ∨
    ∃ f d x, (s.activeBank f).definition? (definedNumber (o.word 0)) = some d ∧
      tunedFieldsOf d.signed (o.word 1) (o.word 2) (o.word 3) (o.word 4) (o.word 5) = .ok x ∧
      (tuneParamOrder o s).1 = applyTune f d (d.tuned x) s := by
  unfold tuneParamOrder
  dsimp only
  split
  · exact .inl rfl
  next f _ =>
  split
  · exact .inl rfl
  next d hd =>
  split
  · exact .inl rfl
  next x hx => exact .inr ⟨f, d, x, hd, hx, rfl⟩

/-- The active bank of a format slot replaced. -/
theorem FormatSlot.setBank_activeBank (x : FormatSlot) (b : Bank) : (x.setBank x.active b).activeBank = b := by
  cases h : x.active <;> simp [setBank, activeBank, bank, h]

/-- The active bank replaced leaves the standby bank. -/
theorem FormatSlot.setBank_standbyBank (x : FormatSlot) (b : Bank) :
    (x.setBank x.active b).standbyBank = x.standbyBank := by
  cases h : x.active <;> simp [setBank, standbyBank, bank, BankId.other, h]

/-- A definition replaced by one of the same number leaves the numbers. -/
theorem Bank.replaceParam_numbers (b : Bank) (d : ParamDef) :
    (b.replaceParam d).params.map (fun x => x.number) = b.params.map (fun x => x.number) := by
  simp only [replaceParam, List.map_map]
  refine List.map_congr_left (fun x _ => ?_)
  simp only [Function.comp]
  split
  next h => exact h.symm
  · rfl

/-- A definition in range that replaces one of the same number leaves a lawful bank. -/
theorem Bank.replaceParam_lawful {b : Bank} {d : ParamDef} (hd : d.InRange) (h : b.Lawful) :
    (b.replaceParam d).Lawful := by
  obtain ⟨header, entries, before, apart, inRange, ordered⟩ := h
  refine ⟨header, entries, before, apart, fun x hx => ?_, ?_⟩
  · simp only [replaceParam, List.mem_map] at hx
    obtain ⟨y, hy, rfl⟩ := hx
    split
    · exact hd
    · exact inRange y hy
  · rw [← List.pairwise_map (f := fun x : ParamDef => x.number) (R := (· < ·))] at ordered ⊢
    rwa [replaceParam_numbers]

/-- An adjusted runtime is lawful when it was (R111). -/
theorem adjustTuned_lawful {old new : ParamDef} {rt : Runtime} (h : rt.Lawful) :
    (adjustTuned old new rt).Lawful := by
  have reset : rt.limitReset.Lawful := ⟨by simp [Runtime.limitReset], by simp [Runtime.limitReset]⟩
  unfold adjustTuned
  dsimp only
  split <;> split
  · exact h
  · exact reset
  · exact h
  · exact reset

/-- The active bank of a format slot replaced by one of the same numbers and lengths. -/
theorem setActive_upholds {s : State} {f : Slot} {b : Bank}
    (hb : (s.activeBank f).Lawful → b.Lawful) (hs : b.slots = (s.activeBank f).slots)
    (hn : b.params.map (fun d => d.number) = (s.activeBank f).params.map (fun d => d.number)) :
    Upholds s (s.setFormat f ((s.format f).setBank (s.format f).active b)) := by
  have active := FormatSlot.setBank_activeBank (s.format f) b
  have standby := FormatSlot.setBank_standbyBank (s.format f) b
  have length : b.params.length = (s.format f).activeBank.params.length := by
    have h := congrArg List.length hn
    rwa [List.length_map, List.length_map] at h
  change b.slots = (s.format f).activeBank.slots at hs
  refine ⟨id, ?pool, ?store, id, ?evaluation⟩
  case pool =>
    rintro ⟨slots, params⟩
    have heldS := heldSlots_setFormat s f ((s.format f).setBank (s.format f).active b)
    have heldP := heldParams_setFormat s f ((s.format f).setBank (s.format f).active b)
    unfold State.PoolConserved
    rw [setFormat_freeSlots, setFormat_freeParams]
    obtain ⟨a, c⟩ | ⟨a, c⟩ := (s.format f).banks_cases <;>
    obtain ⟨a', c'⟩ | ⟨a', c'⟩ := ((s.format f).setBank (s.format f).active b).banks_cases <;>
    rw [a, c, a', c', active, standby, ← hs] at heldS <;>
    rw [a, c, a', c', active, standby, length] at heldP <;> omega
  case store =>
    intro h g
    rw [setFormat_format]
    split
    next hg =>
      subst hg
      have old := h f
      obtain ⟨a, c⟩ | ⟨a, c⟩ := (s.format f).banks_cases <;>
      obtain ⟨a', c'⟩ | ⟨a', c'⟩ := ((s.format f).setBank (s.format f).active b).banks_cases <;>
      rw [a, c] at old <;> rw [a', c', active, standby]
      · exact ⟨hb old.1, old.2⟩
      · exact ⟨old.2, hb old.1⟩
      · exact ⟨hb old.2, old.1⟩
      · exact ⟨old.1, hb old.2⟩
    · exact h g
  case evaluation =>
    intro h g
    have numbers : ((s.setFormat f ((s.format f).setBank (s.format f).active b)).activeBank g).params.map
        (fun d => d.number) = (s.activeBank g).params.map (fun d => d.number) := by
      rw [setFormat_activeBank]
      split
      next hg => subst hg; rw [active, hn]
      · rfl
    rw [numbers]
    exact h g

/-- Runtimes replaced by as many of the same numbers, lawful when those were. -/
theorem setRuntimes_upholds {s : State} {f : Slot} {es : List RuntimeEntry}
    (hn : es.map (fun e => e.number) = (s.runtimesOf f).map (fun e => e.number))
    (hl : (∀ e ∈ s.runtimesOf f, e.runtime.Lawful) → ∀ e ∈ es, e.runtime.Lawful) :
    Upholds s (s.setRuntimes f es) where
  links := id
  pool := id
  store := id
  counts := id
  evaluation := by
    intro h g
    obtain ⟨contexts, runtimes, lawful⟩ := h g
    refine ⟨contexts, ?_, ?_⟩ <;> rw [setRuntimes_runtimesOf]
    · split
      next hg => subst hg; exact hn.trans runtimes
      · exact runtimes
    · split
      next hg => subst hg; exact hl lawful
      · exact lawful

theorem applyTune_upholds {f : Slot} {old new : ParamDef} {s : State}
    (hnew : (s.activeBank f).Lawful → new.InRange) : Upholds s (applyTune f old new s) := by
  have edited : Upholds s (s.setFormat f ((s.format f).setBank (s.format f).active
      ((s.format f).activeBank.replaceParam new))) :=
    setActive_upholds (fun h => Bank.replaceParam_lawful (hnew h) h) rfl (Bank.replaceParam_numbers _ _)
  unfold applyTune
  dsimp only
  split
  · exact edited
  next rt hrt =>
    refine edited.trans (setRuntimes_upholds (replaceRuntime_numbers _ _ _) (fun h => ?_))
    simp only [State.runtime?, Option.map_eq_some_iff] at hrt
    obtain ⟨e, he, rfl⟩ := hrt
    exact replaceRuntime_lawful (adjustTuned_lawful (h e (List.mem_of_find?_eq_some he))) h

theorem tuneParamOrder_upholds (o : QueuedOrder) (s : State) : Upholds s (tuneParamOrder o s).1 := by
  obtain e | ⟨f, d, x, hd, hx, e⟩ := tuneParamOrder_cases o s <;> rw [e]
  · exact Upholds.refl s
  · refine applyTune_upholds (fun ⟨_, _, _, _, inRange, _⟩ => ?_)
    obtain ⟨number, low, high, -, -⟩ := inRange d (List.mem_of_find?_eq_some hd)
    obtain ⟨emission, limits⟩ := tunedFieldsOf_inRange hx
    exact ⟨number, low, high, emission, limits⟩

/-! ### Readings -/

theorem readParamOrder_state (o : QueuedOrder) (s : State) : (readParamOrder o s).1 = s := by
  unfold readParamOrder
  dsimp only
  split
  · rfl
  split
  · rfl
  split <;> rfl

theorem readBankOrder_state (o : QueuedOrder) (s : State) : (readBankOrder o s).1 = s := by
  unfold readBankOrder
  split <;> rfl

theorem readStatusOrder_state (o : QueuedOrder) (s : State) : (readStatusOrder o s).1 = s := by
  unfold readStatusOrder
  split <;> rfl

/-! ### CLEAR_COUNTERS and the settings -/

/-- Trackers replaced row by row by ones whose rows are lawful when those were. -/
theorem setTrackers_upholds {s : State} {ts : Vector Tracker 4}
    (h : s.RowsLawful → ∀ t r, ∀ y ∈ pick (pick ts t).rows r, y.Lawful) :
    Upholds s { s with trackers := ts } where
  links := id
  pool := id
  store := id
  counts := fun ⟨profiles, receivers, rows⟩ => ⟨profiles, receivers, h rows⟩
  evaluation := id

/-- Every place of a row of things changed alike. -/
theorem pick_map {α β : Type} {n : Nat} (g : α → β) (v : Vector α n) (i : Fin n) :
    pick (v.map g) i = g (pick v i) := by
  simp [pick]

theorem clearScope_upholds (s : State) (sc : Scope) : Upholds s (clearScope s sc) := by
  cases sc with
  | part => exact setEvents_upholds s _
  | trunk t =>
    refine (onCounters_keeps t _ s).upholds.trans (setTrackers_upholds (fun h k r y hy => ?_))
    rw [pick_put] at hy
    split at hy
    next hk =>
      subst hk
      simp only [Tracker.cleared, pick_map, Option.mem_map] at hy
      obtain ⟨x, hx, rfl⟩ := hy
      exact h t r x hx
    · exact h k r y hy
  | link l => exact setLink_upholds (fun h => LinkTx.dropped_lawful h _ _ (.inl rfl))
  | format f =>
    refine setRuntimes_upholds (by simp [clearSamples]) (fun h e he => ?_)
    simp only [clearSamples, List.mem_map] at he
    obtain ⟨x, hx, rfl⟩ := he
    exact h x hx

theorem clearCountersOrder_upholds (o : QueuedOrder) (s : State) : Upholds s (clearCountersOrder o s).1 := by
  unfold clearCountersOrder
  split
  · exact Upholds.refl s
  · exact clearScope_upholds s _

theorem setOrderAcceptOrder_upholds (o : QueuedOrder) (s : State) : Upholds s (setOrderAcceptOrder o s).1 := by
  unfold setOrderAcceptOrder
  dsimp only
  split
  · exact Upholds.refl s
  · split
    · exact Upholds.refl s
    · exact setOrders_upholds s _

/-- A stall time within its range keeps the link's laws (R120). -/
theorem LinkTx.withStallTime_lawful {lk : LinkTx} {n : Nat} (hn : 1 ≤ n ∧ n ≤ 255)
    (h : lk.Lawful ∧ lk.Scheduled) : (lk.withStallTime n).Lawful ∧ (lk.withStallTime n).Scheduled := by
  obtain ⟨⟨h1, h2, h3, h4, -, -, h7⟩, hs⟩ := h
  exact ⟨⟨h1, h2, h3, h4, hn.1, hn.2, h7⟩, hs⟩

theorem setEventsOrder_upholds (o : QueuedOrder) (s : State) : Upholds s (setEventsOrder o s).1 := by
  unfold setEventsOrder
  split
  · exact Upholds.refl s
  · exact Upholds.refl s
  next hr _ =>
    rw [rangeFailure_eq_none] at hr
    simp only [setEventsRanges, List.forall_mem_cons, within_eq_true] at hr
    obtain ⟨-, -, time0, time1, -⟩ := hr
    have first := setLink_upholds (s := s) (l := 0) (LinkTx.withStallTime_lawful time0)
    have second := setLink_upholds (s := s.setLink 0 ((s.link 0).withStallTime (o.arg 2))) (l := 1)
      (x := (s.link 1).withStallTime (o.arg 3))
      (by rw [setLink_link_ne _ _ _ _ (by decide)]; exact LinkTx.withStallTime_lawful time1)
    exact (first.trans second).trans (setEvents_upholds _ _)

/-! ### RESTART -/

/-- Fresh runtimes for every format slot of a list uphold the laws (R115). -/
theorem freshRuntimes_upholds (s : State) (f : Slot) :
    Upholds s (s.setRuntimes f (freshRuntimes (s.activeBank f))) where
  links := id
  pool := id
  store := id
  counts := id
  evaluation := by
    intro h g
    obtain ⟨contexts, runtimes, lawful⟩ := h g
    refine ⟨contexts, ?_, ?_⟩ <;> rw [setRuntimes_runtimesOf]
    · split
      next hg => subst hg; simp [freshRuntimes]
      · exact runtimes
    · split
      · intro e he
        simp only [freshRuntimes, List.mem_map] at he
        obtain ⟨d, -, rfl⟩ := he
        simp [Runtime.fresh]
      · exact lawful

/-- A row that RESTART sets is lawful (R38). -/
theorem Row.restarted_lawful (committed : Bool) (x : Row) : (x.restarted committed).Lawful :=
  ⟨fun _ => rfl, fun _ => rfl⟩

theorem restartStep_upholds (arrived : Vector Nat 4) (s : State) (x : RestartStep) :
    Upholds s (restartStep arrived s x) := by
  cases x with
  | switchControl => exact (settleFormats_keeps .order _ s).upholds
  | trunk t => exact reinitTrunk_upholds (fun h => h t) _
  | evaluation => exact Upholds.foldl _ freshRuntimes_upholds slotList s
  | link l =>
    have restarted : Upholds s (s.setLink l (s.link l).restart) :=
      setLink_upholds (fun h => LinkTx.restart_lawful h.1)
    unfold restartStep
    dsimp only
    split
    · exact restarted.trans (setEvents_upholds _ _)
    · exact restarted
  | rows =>
    refine setTrackers_upholds (fun _ t r y hy => ?_)
    simp only [Tracker.restarted, pick_map, Option.mem_map] at hy
    obtain ⟨x, -, rfl⟩ := hy
    exact Row.restarted_lawful _ x
  | reply => exact Upholds.refl s

/-! ### Power-on reset and the passing of time -/

/-- A link released from power-on reset keeps its laws, whatever the level of its ready line. -/
theorem LinkTx.released_lawful (ready : Bool) : (LinkTx.released ready).Lawful ∧ (LinkTx.released ready).Scheduled := by
  have off : LinkTx.powerOn.Lawful ∧ LinkTx.powerOn.Scheduled := by decide
  cases ready with
  | false => exact off
  | true => exact LinkTx.goUp_lawful off.1 rfl

/-- The state that POWER_ON_RESET leaves. -/
def releasedState (ready0 ready1 : Bool) (s : State) : State :=
  { State.reset with
    links := #v[LinkTx.released ready0, LinkTx.released ready1], draws := s.draws, pending := s.pending }

/-- The blocks of the state that POWER_ON_RESET leaves. -/
theorem released_receiver (ready0 ready1 : Bool) (s : State) (t : Trunk) :
    (releasedState ready0 ready1 s).receiver t = Receiver.powerOn := pick_replicate _ t

theorem released_tracker (ready0 ready1 : Bool) (s : State) (t : Trunk) :
    (releasedState ready0 ready1 s).tracker t = Tracker.powerOn := pick_replicate _ t

theorem released_row (ready0 ready1 : Bool) (s : State) (t : Trunk) (r : RowIx) :
    (releasedState ready0 ready1 s).row t r = none := by
  rw [State.row, released_tracker]
  exact pick_replicate _ r

theorem released_format (ready0 ready1 : Bool) (s : State) (f : Slot) :
    (releasedState ready0 ready1 s).format f = FormatSlot.powerOn := pick_replicate _ f

/-- After power-on reset every law holds. -/
theorem released_laws (ready0 ready1 : Bool) (s : State) :
    (releasedState ready0 ready1 s).LinksLawful ∧ (releasedState ready0 ready1 s).PoolConserved ∧
    (releasedState ready0 ready1 s).StoreLawful ∧ (releasedState ready0 ready1 s).CountsLawful ∧
    (releasedState ready0 ready1 s).EvaluationLawful := by
  refine ⟨?links, ?pool, fun f => ?store, ⟨fun t => ?profiles, fun t => ?receivers, fun t r x hx => ?rows⟩, ?evaluation⟩
  case links =>
    intro l
    fin_cases l
    · exact LinkTx.released_lawful ready0
    · exact LinkTx.released_lawful ready1
  case pool =>
    simp only [State.PoolConserved, State.heldSlots, State.heldParams, released_format]
    exact ⟨rfl, rfl⟩
  case store => rw [released_format]; exact ⟨Bank.empty_lawful, Bank.empty_lawful⟩
  case profiles => rw [released_receiver]; exact .inl rfl
  case receivers => rw [released_receiver]; decide
  case rows => rw [released_row] at hx; cases hx
  case evaluation =>
    intro f
    have contexts : (releasedState ready0 ready1 s).contextsOf f = [] := pick_replicate _ f
    have runtimes : (releasedState ready0 ready1 s).runtimesOf f = [] := pick_replicate _ f
    have bank : (releasedState ready0 ready1 s).activeBank f = Bank.empty := by
      rw [State.activeBank, released_format]; rfl
    simp [contexts, runtimes, bank, Bank.empty]

theorem released_upholds (ready0 ready1 : Bool) (s : State) : Upholds s (releasedState ready0 ready1 s) := by
  obtain ⟨links, pool, store, counts, evaluation⟩ := released_laws ready0 ready1 s
  exact ⟨fun _ => links, fun _ => pool, fun _ => store, fun _ => counts, fun _ => evaluation⟩

/-- A link whose timer has just run out: UP without credit, with records not started (R121). -/
structure LinkTx.Due (lk : LinkTx) : Prop where
  lawful : lk.Lawful
  timer : lk.timer = some 0
  up : lk.state = .up
  credits : lk.credits = 0
  waiting : 0 < lk.unstarted

/-- A link that is due stalls lawfully. -/
theorem LinkTx.Due.stall_lawful {lk : LinkTx} (h : lk.Due) : lk.stall.Lawful ∧ lk.stall.Scheduled := by
  have scheduled : ({ lk with timer := some 1 } : LinkTx).Scheduled :=
    ⟨by simp [h.up, h.credits]; exact h.waiting, by simp, by simp [h.credits]⟩
  exact LinkTx.stall_lawful (lk := { lk with timer := some 1 }) h.lawful scheduled rfl

/-- A link that is due starts nothing when a record is placed: it stays due. -/
theorem LinkTx.Due.pushControl {lk : LinkTx} (h : lk.Due) (r : Record) (ha : lk.controlAnswer = .accepted) :
    (lk.pushControl r).Due := by
  have longer : 0 < ({ lk with control := lk.control ++ [r] } : LinkTx).unstarted := by
    have := h.waiting
    simp only [unstarted, List.length_append, List.length_singleton] at this ⊢
    omega
  have pushed : lk.pushControl r = { lk with control := lk.control ++ [r] } := by
    have idle : ({ lk with control := lk.control ++ [r] } : LinkTx).start = { lk with control := lk.control ++ [r] } :=
      if_neg (by simp [h.credits])
    unfold LinkTx.pushControl settle
    rw [idle, runTimer, if_pos ⟨h.up, h.credits, longer⟩]
    simp [h.timer]
  obtain ⟨h1, h2, h3, h4, h5, h6, h7, h8, h9, h10⟩ := h.lawful
  have room : lk.control.length < Config.controlLane := by
    simpa [controlAnswer, h.up] using ha
  rw [pushed]
  refine ⟨⟨?_, h2, h3, h4, h5, h6, fun hn => absurd h.up hn, h8, by simp, h10⟩, h.timer, h.up, h.credits, longer⟩
  simp only [List.length_append, List.length_singleton]
  omega

/-- One unit of time at a lawful link: its timer has not run out, or the link is due. -/
theorem LinkTx.countDown_cases {lk : LinkTx} (h : lk.Lawful ∧ lk.Scheduled) :
    if lk.countDown.timer = some 0 then lk.countDown.Due else lk.countDown.Lawful ∧ lk.countDown.Scheduled := by
  obtain ⟨lawful, running, bounds, idle⟩ := h
  cases ht : lk.timer with
  | none =>
    have same : lk.countDown = lk := by rw [countDown, ht, Option.map_none, ← ht]
    rw [same, if_neg (by simp [ht])]
    exact ⟨lawful, running, bounds, idle⟩
  | some n =>
    have bound := bounds n (by simp [ht])
    obtain ⟨up, credits, waiting⟩ := running.mp (by simp [ht])
    split
    next h0 => exact ⟨lawful, h0, up, credits, waiting⟩
    next h0 =>
      refine ⟨lawful, by simpa [countDown, ht] using ⟨up, credits, waiting⟩, ?_, idle⟩
      simp only [countDown, ht, Option.map_some, Option.mem_def, Option.some.injEq, forall_eq'] at h0 ⊢
      omega

/-- The links after a stall timer has run out and the event is placed on the other link. -/
theorem expireTimer_links {l : Link} {s : State} (h : (s.link l).Due) :
    ((expireTimer l s).link l).Lawful ∧ ((expireTimer l s).link l).Scheduled ∧
    ((expireTimer l s).link (otherLink l) = s.link (otherLink l) ∨
      ∃ r, (s.link (otherLink l)).controlAnswer = .accepted ∧
        (expireTimer l s).link (otherLink l) = (s.link (otherLink l)).pushControl r) := by
  have other : l ≠ otherLink l := by fin_cases l <;> decide
  have stalled := h.stall_lawful
  have placed : ∀ r u, (u = placeEvent (otherLink l) r (s.setLink l (s.link l).stall)) →
      (u.link l).Lawful ∧ (u.link l).Scheduled ∧ (u.link (otherLink l) = s.link (otherLink l) ∨
        ∃ r, (s.link (otherLink l)).controlAnswer = .accepted ∧
          u.link (otherLink l) = (s.link (otherLink l)).pushControl r) := by
    rintro r u rfl
    have same := setLink_link_ne s l (s.link l).stall (otherLink l) other
    unfold placeEvent
    rw [same]
    split
    next ha =>
      rw [setLink_link_ne _ _ _ _ other.symm, setLink_link_same, setLink_link_same]
      exact ⟨stalled.1, stalled.2, .inr ⟨r, ha, rfl⟩⟩
    · refine ⟨?_, ?_, .inl same⟩ <;> rw [State.countLost, setEvents_link, setLink_link_same]
      exacts [stalled.1, stalled.2]
    · refine ⟨?_, ?_, .inl same⟩ <;> rw [State.countLost, setEvents_link, setLink_link_same]
      exacts [stalled.1, stalled.2]
  have notice : ∀ u k, (giveNotice l .leftUp u).link k = u.link k := by
    intro u k
    unfold State.link
    rw [giveNotice_links]
  have isSome : (s.link l).timer.isSome = true := by rw [h.timer]; rfl
  simp only [expireTimer, isSome, if_true, notice]
  unfold postLinkStalled
  split
  · exact placed _ _ rfl
  · rw [setLink_link_same, setLink_link_ne _ _ _ _ other]
    exact ⟨stalled.1, stalled.2, .inl rfl⟩

/-- Two links, one of which is `l`. -/
theorem linksLawful_of_pair {s : State} (l : Link) (h : (s.link l).Lawful ∧ (s.link l).Scheduled)
    (k : (s.link (otherLink l)).Lawful ∧ (s.link (otherLink l)).Scheduled) : s.LinksLawful := by
  intro m
  by_cases hm : m = l
  · rw [hm]; exact h
  · have : m = otherLink l := by revert hm; fin_cases l <;> fin_cases m <;> decide
    rw [this]; exact k

/-- The expiry at a due link beside a lawful one leaves both lawful. -/
theorem expireTimer_due_lawful {l : Link} {s : State} (h : (s.link l).Due)
    (k : (s.link (otherLink l)).Lawful ∧ (s.link (otherLink l)).Scheduled) : (expireTimer l s).LinksLawful := by
  obtain ⟨lawful, scheduled, e | ⟨r, ha, e⟩⟩ := expireTimer_links h
  · exact linksLawful_of_pair l ⟨lawful, scheduled⟩ (by rw [e]; exact k)
  · exact linksLawful_of_pair l ⟨lawful, scheduled⟩ (by rw [e]; exact LinkTx.pushControl_lawful r k.1 k.2 ha)

/-- The expiries at two due links, in either order, leave both lawful. -/
theorem expireTimer_both_lawful {l : Link} {s : State} (h : (s.link l).Due) (k : (s.link (otherLink l)).Due) :
    (expireTimer (otherLink l) (expireTimer l s)).LinksLawful := by
  have back : otherLink (otherLink l) = l := by fin_cases l <;> rfl
  obtain ⟨lawful, scheduled, e⟩ := expireTimer_links h
  have due : ((expireTimer l s).link (otherLink l)).Due := by
    obtain e | ⟨r, ha, e⟩ := e
    · rw [e]; exact k
    · rw [e]; exact k.pushControl r ha
  exact expireTimer_due_lawful due (by rw [back]; exact ⟨lawful, scheduled⟩)

/-- The passing of a unit of time keeps the laws of the links (R120, R121). -/
theorem passUnit_linksLawful {s : State} (h : s.LinksLawful) : (passUnit s).LinksLawful := by
  unfold passUnit
  dsimp only
  generalize hu : (s.setLink 0 (s.link 0).countDown).setLink 1 (s.link 1).countDown = u
  have link0 : u.link 0 = (s.link 0).countDown := by
    rw [← hu, setLink_link_ne _ _ _ _ (by decide), setLink_link_same]
  have link1 : u.link 1 = (s.link 1).countDown := by rw [← hu, setLink_link_same]
  have out : ∀ l, timerOut u l = true ↔ (u.link l).timer = some 0 := fun l => by simp [timerOut]
  have counted : ∀ l, if timerOut u l = true then (u.link l).Due else (u.link l).Lawful ∧ (u.link l).Scheduled := by
    intro l
    simp only [out]
    fin_cases l
    · exact link0 ▸ LinkTx.countDown_cases (h 0)
    · exact link1 ▸ LinkTx.countDown_cases (h 1)
  have c0 := counted 0
  have c1 := counted 1
  by_cases h0 : timerOut u 0 = true <;> by_cases h1 : timerOut u 1 = true
  · rw [if_pos h0] at c0
    rw [if_pos h1] at c1
    simp only [h0, h1, Bool.and_self, if_true]
    split
    · exact expireTimer_both_lawful (l := 0) c0 c1
    · exact expireTimer_both_lawful (l := 1) c1 c0
  · rw [if_pos h0] at c0
    rw [if_neg h1] at c1
    simp only [h0, h1, Bool.and_false, Bool.false_eq_true, if_true, if_false]
    exact expireTimer_due_lawful (l := 0) c0 c1
  · rw [if_neg h0] at c0
    rw [if_pos h1] at c1
    simp only [h0, h1, Bool.false_and, Bool.false_eq_true, if_true, if_false]
    exact expireTimer_due_lawful (l := 1) c1 c0
  · rw [if_neg h0] at c0
    rw [if_neg h1] at c1
    simp only [h0, h1, Bool.false_and, Bool.false_eq_true, if_false]
    exact linksLawful_of_pair 0 c0 c1

/-- The passing of a unit of time changes links, the event unit, the room notice and the free-value counter
alone. -/
theorem passUnit_frame (s : State) :
    ∃ ls ev n d, passUnit s = { s with
      links := ls, events := ev, orders := { s.orders with notice := n }, draws := d } := by
  have twice : ∀ l k u, ∃ ls n m, expireTimer k (expireTimer l u) =
      { u with links := ls, events := { u.events with lost := n }, orders := { u.orders with notice := m } } := by
    intro l k u
    obtain ⟨ls, n, m, e⟩ := expireTimer_frame l u
    obtain ⟨ls', n', m', e'⟩ := expireTimer_frame k (expireTimer l u)
    exact ⟨ls', n', m', by rw [e', e]⟩
  unfold passUnit
  dsimp only
  split
  · split
    · obtain ⟨ls, n, m, e⟩ := twice 0 1 ((s.setLink 0 (s.link 0).countDown).setLink 1 (s.link 1).countDown)
      exact ⟨ls, _, m, _, by rw [e]; rfl⟩
    · obtain ⟨ls, n, m, e⟩ := twice 1 0 ((s.setLink 0 (s.link 0).countDown).setLink 1 (s.link 1).countDown)
      exact ⟨ls, _, m, _, by rw [e]; rfl⟩
  · split
    · obtain ⟨ls, n, m, e⟩ := expireTimer_frame 0
        ((s.setLink 0 (s.link 0).countDown).setLink 1 (s.link 1).countDown)
      exact ⟨ls, _, m, _, by rw [e]; rfl⟩
    · split
      · obtain ⟨ls, n, m, e⟩ := expireTimer_frame 1
          ((s.setLink 0 (s.link 0).countDown).setLink 1 (s.link 1).countDown)
        exact ⟨ls, _, m, _, by rw [e]; rfl⟩
      · exact ⟨_, _, _, _, rfl⟩

theorem passUnit_upholds (s : State) : Upholds s (passUnit s) := by
  refine Upholds.ofLinks passUnit_linksLawful ?_
  obtain ⟨ls, ev, n, d, h⟩ := passUnit_frame s
  rw [h]

/-! ### The step -/

/-- Every command upholds the laws. -/
theorem exec_upholds {c : Instr} {s u : State} (h : exec c s = .next u) : Upholds s u := by
  cases c <;> cases h
  case powerOnReset ready0 ready1 => exact released_upholds ready0 ready1 s
  case syncCandidateMatch t start bits => exact syncCandidate_upholds t start bits s
  case expectedBoundaryComparison t bits => exact boundaryComparison_upholds t bits s
  case orderMarkerMatch t start bits => exact markerMatch_upholds t start bits s
  case orderFrameReceived t header control body check others => exact orderFrames_upholds _ s
  case minorFrameDelivered t words => exact minorFrame_upholds t words s
  case waitingFrameProcessed t => exact (waitingFrame_keeps t s).upholds
  case linkUp l => exact linkUp_upholds l s
  case linkDown l => exact linkDown_upholds l s
  case creditReturn l => exact setLink_upholds (fun h => LinkTx.credit_lawful h.1 h.2)
  case stallTimerExpiry l => exact expireTimer_upholds l s
  case recordSent l => exact recordSent_upholds l s
  case roomNotice records => exact upholds_composes.takeNotice records s
  case unknownOrder => exact upholds_composes.unknownOrder s
  case echo => exact upholds_composes.carryOut (fun _ s => Upholds.refl s) s
  case setTrunk arrived steps =>
    exact upholds_composes.carryOutSettling (settleFormat_upholds _) (setTrunkFinish_upholds arrived) s
  case bindSource => exact upholds_composes.carryOut bindSourceOrder_upholds s
  case unbindSource steps =>
    exact upholds_composes.carryOutSettling (settleFormat_upholds _) unbindFinish_upholds s
  case stageHeader =>
    exact upholds_composes.carryOut (fun o => stagingOrder_upholds (placeHeader_upholds _) o) s
  case stageSlots =>
    exact upholds_composes.carryOut
      (fun o => stagingOrder_upholds (placeSlots_upholds (slotItems_inRange _)) o) s
  case stageParams =>
    exact upholds_composes.carryOut
      (fun o => stagingOrder_upholds (placeParams_upholds (paramItems_inRange _)) o) s
  case discardStage => exact upholds_composes.carryOut discardStageOrder_upholds s
  case commit => exact upholds_composes.carryOut commitOrder_upholds s
  case cancelCommit => exact upholds_composes.carryOut cancelCommitOrder_upholds s
  case tuneParam => exact upholds_composes.carryOut tuneParamOrder_upholds s
  case readParam =>
    exact upholds_composes.carryOut (fun o s => (readParamOrder_state o s).symm ▸ Upholds.refl s) s
  case readBank records => exact upholds_composes.carryOutUpTo readBankOrder_state s
  case readStatus records => exact upholds_composes.carryOutUpTo readStatusOrder_state s
  case clearCounters => exact upholds_composes.carryOut clearCountersOrder_upholds s
  case setOrderAccept => exact upholds_composes.carryOut setOrderAcceptOrder_upholds s
  case setEvents => exact upholds_composes.carryOut setEventsOrder_upholds s
  case restart steps arrived => exact upholds_composes.restartOrder (restartStep_upholds arrived) steps s

/-- Every step upholds the laws. -/
theorem step_upholds {s u : State} (h : step s = .next u) : Upholds s u := by
  unfold step at h
  split at h
  · cases h
    exact passUnit_upholds s
  next c rest _ => exact (Upholds.aside s s.events s.orders s.draws rest).trans (exec_upholds h)

/-! ### The obligations -/

/-- Settles O53: the laws of the links are among those that every step upholds. -/
theorem stepKeepsLinksLawful : Obligations.StepKeepsLinksLawful := by
  unfold Obligations.StepKeepsLinksLawful
  exact fun s u h hs => (step_upholds hs).links h

/-- Settles O54: the conservation of the pool is among what every step upholds. -/
theorem stepKeepsPoolConserved : Obligations.StepKeepsPoolConserved := by
  unfold Obligations.StepKeepsPoolConserved
  exact fun s u h hs => (step_upholds hs).pool h

/-- Settles O55: the laws of the banks are among those that every step upholds. -/
theorem stepKeepsStoreLawful : Obligations.StepKeepsStoreLawful := by
  unfold Obligations.StepKeepsStoreLawful
  exact fun s u h hs => (step_upholds hs).store h

/-- Settles O56: the counts within their states are among what every step upholds. -/
theorem stepKeepsCountsLawful : Obligations.StepKeepsCountsLawful := by
  unfold Obligations.StepKeepsCountsLawful
  exact fun s u profiles receivers rows hs => (step_upholds hs).counts ⟨profiles, receivers, rows⟩

/-- Settles O59: the laws of the evaluation unit are among those that every step upholds. -/
theorem stepKeepsEvaluationLawful : Obligations.StepKeepsEvaluationLawful := by
  unfold Obligations.StepKeepsEvaluationLawful
  exact fun s u h hs => (step_upholds hs).evaluation h

end Sys2Proof.Machine
end

section
/-! PROOFS. The order unit (R143 to R155): what leaves it alone, what hands it a frame, what ends the engine's wait,
and what an order's own part leaves of it; and from these the obligations O60 and O2. -/

namespace Sys2Proof.Machine

/-- The laws of the order unit and of its waiting engine. -/
def State.Orderly (s : State) : Prop := s.OrdersLawful ∧ s.waitLawful = true

/-! ### What an order's own part leaves alone -/

/-- The order unit and the commands that wait are the same: what the effects of an order leave alone. -/
structure Apart (s u : State) : Prop where
  orders : u.orders = s.orders
  pending : u.pending = s.pending

theorem Apart.refl (s : State) : Apart s s := ⟨rfl, rfl⟩

theorem Apart.trans {s u v : State} (h : Apart s u) (k : Apart u v) : Apart s v :=
  ⟨k.orders.trans h.orders, k.pending.trans h.pending⟩

theorem Apart.foldl {α : Type} (step : State → α → State) (h : ∀ s a, Apart s (step s a)) (xs : List α) :
    ∀ s, Apart s (xs.foldl step s) := by
  induction xs with
  | nil => exact Apart.refl
  | cons x xs ih => exact fun s => (h s x).trans (ih _)

theorem Keeps.apart {s u : State} (k : Keeps s u) : Apart s u := by
  rw [k.frame]
  exact ⟨rfl, rfl⟩

theorem changeReceiver_apart (t : Trunk) (y : Receiver) (s : State) : Apart s (changeReceiver t y s) := by
  unfold changeReceiver
  split
  · exact ⟨rfl, rfl⟩
  · have set : Apart s (s.setReceiver t y) := ⟨rfl, rfl⟩
    exact set.trans (postEvent_keeps _ _ _ _ _).apart

theorem reinitTrunk_apart (t : Trunk) (p : Profile) (arrived : Nat) (s : State) :
    Apart s (reinitTrunk t p arrived s) := by
  unfold reinitTrunk
  dsimp only
  refine (drainWaiting_keeps t s).apart.trans (Apart.trans ?_
    ((endDelivery_keeps t .order _).trans (onCounters_keeps t _ _)).apart)
  exact changeReceiver_apart _ _ _

theorem setTrunkFinish_apart (arrived : Nat) (o : QueuedOrder) (s : State) :
    Apart s (setTrunkFinish arrived o s).1 := by
  obtain e | ⟨t, -, e⟩ := setTrunkFinish_cases arrived o s <;> rw [e]
  · exact Apart.refl s
  · exact reinitTrunk_apart t _ _ s

theorem unbindFinish_apart (o : QueuedOrder) (s : State) : Apart s (unbindFinish o s).1 := by
  obtain e | ⟨t, r, x, -, e⟩ := unbindFinish_cases o s <;> rw [e] <;> exact ⟨rfl, rfl⟩

theorem bindSourceOrder_apart (o : QueuedOrder) (s : State) : Apart s (bindSourceOrder o s).1 := by
  obtain e | ⟨t, r, f, e⟩ := bindSourceOrder_cases o s <;> rw [e]
  · exact Apart.refl s
  obtain e | ⟨-, -, -, -, e⟩ := bindTo_cases t r f (o.arg 3) s <;> rw [e] <;> exact ⟨rfl, rfl⟩

theorem openStaging_apart (f : Slot) (s : State) : Apart s (openStaging f s) := by
  unfold openStaging
  split <;> exact ⟨rfl, rfl⟩

theorem stagingOrder_apart {content : Slot → State → State × Status × Word}
    (h : ∀ f s, Apart s (content f s).1) (o : QueuedOrder) (s : State) :
    Apart s (stagingOrder content o s).1 := by
  unfold stagingOrder
  split
  · exact Apart.refl s
  · split
    · exact Apart.refl s
    · exact (openStaging_apart _ s).trans (h _ _)

theorem placeHeader_apart (h : Header) (f : Slot) (s : State) : Apart s (placeHeader h f s).1 := by
  unfold placeHeader
  split <;> exact ⟨rfl, rfl⟩

theorem placeSlots_apart (items : List (Option SlotEntry)) (f : Slot) (s : State) :
    Apart s (placeSlots items f s).1 := by
  unfold placeSlots
  dsimp only
  split
  · exact Apart.refl s
  · split <;> exact ⟨rfl, rfl⟩

theorem placeParams_apart (items : List (Option ParamDef)) (f : Slot) (s : State) :
    Apart s (placeParams items f s).1 := by
  unfold placeParams
  dsimp only
  split
  · exact Apart.refl s
  · split <;> exact ⟨rfl, rfl⟩

theorem discardStageOrder_apart (o : QueuedOrder) (s : State) : Apart s (discardStageOrder o s).1 := by
  unfold discardStageOrder
  split
  · exact Apart.refl s
  · unfold discardStage
    split
    · exact Apart.refl s
    · dsimp only
      split <;> exact ⟨rfl, rfl⟩

theorem commitOrder_apart (o : QueuedOrder) (s : State) : Apart s (commitOrder o s).1 := by
  obtain e | ⟨f, -, -, ⟨-, e⟩ | ⟨-, e⟩⟩ := commitOrder_cases o s <;> rw [e]
  · exact Apart.refl s
  · exact ⟨rfl, rfl⟩
  · exact (switchFormat_keeps f .immediate s).apart

theorem cancelCommitOrder_apart (o : QueuedOrder) (s : State) : Apart s (cancelCommitOrder o s).1 := by
  obtain e | ⟨f, -, e⟩ := cancelCommitOrder_cases o s <;> rw [e] <;> exact ⟨rfl, rfl⟩

theorem tuneParamOrder_apart (o : QueuedOrder) (s : State) : Apart s (tuneParamOrder o s).1 := by
  obtain e | ⟨f, d, x, -, -, e⟩ := tuneParamOrder_cases o s <;> rw [e]
  · exact Apart.refl s
  · unfold applyTune
    dsimp only
    split <;> exact ⟨rfl, rfl⟩

theorem clearCountersOrder_apart (o : QueuedOrder) (s : State) : Apart s (clearCountersOrder o s).1 := by
  unfold clearCountersOrder
  split
  · exact Apart.refl s
  next sc _ => cases sc <;> exact ⟨rfl, rfl⟩

theorem setEventsOrder_apart (o : QueuedOrder) (s : State) : Apart s (setEventsOrder o s).1 := by
  unfold setEventsOrder
  split <;> exact ⟨rfl, rfl⟩

theorem restartStep_apart (arrived : Vector Nat 4) (s : State) (x : RestartStep) :
    Apart s (restartStep arrived s x) := by
  cases x with
  | switchControl => exact (settleFormats_keeps .order _ s).apart
  | trunk t => exact reinitTrunk_apart t _ _ s
  | evaluation =>
    have fresh : ∀ u f, Apart u (u.setRuntimes f (freshRuntimes (u.activeBank f))) := fun _ _ => ⟨rfl, rfl⟩
    exact Apart.foldl _ fresh slotList s
  | link l =>
    unfold restartStep
    dsimp only
    split <;> exact ⟨rfl, rfl⟩
  | rows => exact ⟨rfl, rfl⟩
  | reply => exact Apart.refl s

/-! ### What leaves the order unit orderly -/

/-- What the waiting engine's law says: without a notice it waits on a full lane of an UP link. -/
theorem waitLawful_iff {s : State} :
    s.waitLawful = true ↔
      ∀ o held rest, s.orders.engine = .replying o held rest → s.orders.notice = none →
        (s.link o.replyLink).state = .up ∧ Config.controlLane ≤ (s.link o.replyLink).control.length := by
  unfold State.waitLawful
  cases he : s.orders.engine with
  | replying o held rest =>
    cases hn : s.orders.notice with
    | none =>
      simp only [Bool.and_eq_true, beq_iff_eq, decide_eq_true_eq, Engine.replying.injEq]
      exact ⟨by rintro h _ _ _ ⟨rfl, -, -⟩ -; exact h, fun h => h o held rest ⟨rfl, rfl, rfl⟩ trivial⟩
    | some k => simp
  | idle => simp
  | executing o => simp
  | settling o left => simp
  | restarting o left => simp
  | placing o next rest => simp

/-- An engine that does not wait keeps its law. -/
theorem waitLawful_of_not_waits {s : State} (h : s.orders.engine.waits = false) : s.waitLawful = true := by
  refine waitLawful_iff.mpr (fun o held rest he => ?_)
  simp [he, Engine.waits] at h

/-- The order unit is orderly still when it is the same and no full lane has become another. -/
theorem State.Orderly.of_full {s u : State} (h : s.Orderly) (ho : u.orders = s.orders)
    (hf : ∀ l, (s.link l).state = .up → Config.controlLane ≤ (s.link l).control.length →
      (u.link l).state = .up ∧ Config.controlLane ≤ (u.link l).control.length) : u.Orderly := by
  refine ⟨?_, waitLawful_iff.mpr (fun o held rest he hn => ?_)⟩
  · unfold State.OrdersLawful
    rw [ho]
    exact h.1
  · rw [ho] at he hn
    obtain ⟨up, full⟩ := waitLawful_iff.mp h.2 o held rest he hn
    exact hf _ up full

/-- What trackers and switch control do leaves the order unit orderly. -/
theorem Keeps.orderly {s u : State} (k : Keeps s u) (h : s.Orderly) : u.Orderly :=
  h.of_full k.apart.orders k.full

/-- What changes neither order unit nor links leaves the order unit orderly. -/
theorem State.Orderly.of_same {s u : State} (h : s.Orderly) (ho : u.orders = s.orders) (hl : u.links = s.links) :
    u.Orderly := by
  refine h.of_full ho (fun l a b => ?_)
  unfold State.link at a b ⊢
  rw [hl]
  exact ⟨a, b⟩

/-- A link replaced by one that is full and UP where it was. -/
theorem setLink_orderly {s : State} (h : s.Orderly) {l : Link} {x : LinkTx}
    (hx : (s.link l).state = .up → Config.controlLane ≤ (s.link l).control.length →
      x.state = .up ∧ Config.controlLane ≤ x.control.length) : (s.setLink l x).Orderly := by
  refine h.of_full rfl (fun k a b => ?_)
  rw [setLink_link]
  split
  next hk => subst hk; exact hx a b
  · exact ⟨a, b⟩

/-! ### The end of a wait -/

/-- The engine waits on a full lane of an UP link, where it does not wait on link `l`. -/
def State.WaitsElsewhere (l : Link) (s : State) : Prop :=
  ∀ o held rest, s.orders.engine = .replying o held rest → s.orders.notice = none → o.replyLink ≠ l →
    (s.link o.replyLink).state = .up ∧ Config.controlLane ≤ (s.link o.replyLink).control.length

/-- Whatever becomes of link `l`, an engine that waits on the other one waits as before. -/
theorem State.Orderly.elsewhere {s : State} (h : s.Orderly) (l : Link) (x : LinkTx) :
    (s.setLink l x).WaitsElsewhere l := by
  intro o held rest he hn hl
  rw [setLink_link_ne _ _ _ _ hl.symm]
  exact waitLawful_iff.mp h.2 o held rest he hn

/-- An event placed on the other link leaves an engine that waits there waiting. -/
theorem postLinkStalled_elsewhere {s : State} {l : Link} (h : s.WaitsElsewhere l) (a b c : Nat) :
    (postLinkStalled l a b c s).WaitsElsewhere l := by
  unfold postLinkStalled
  split
  next =>
    intro o held rest he hn hl
    obtain ⟨ls, n, e⟩ := placeEvent_frame (otherLink l)
      (eventRecord .linkStalled (numWord l.val) 0 [numWord a, numWord b, numWord c]) s
    have orders := congrArg State.orders e
    rw [orders] at he hn
    obtain ⟨up, full⟩ := h o held rest he hn hl
    exact placeEvent_full _ _ _ _ up full
  next => exact h

/-- A room notice given on the link that changed leaves the order unit orderly (R126). -/
theorem giveNotice_orderly {s : State} {l : Link} (n : RoomNotice) (ho : s.OrdersLawful)
    (hw : s.WaitsElsewhere l) : (giveNotice l n s).Orderly := by
  have still : ∀ hne : ∀ o held rest, s.orders.engine ≠ .replying o held rest, s.Orderly :=
    fun hne => ⟨ho, waitLawful_iff.mpr (fun o held rest he => absurd he (hne o held rest))⟩
  unfold giveNotice
  split
  next o held rest he =>
    split
    next hc =>
      obtain ⟨h1, h2, h3, h4, -, h6, h7, h8⟩ := ho
      refine ⟨⟨h1, h2, h3, h4, ?_, h6, h7, h8⟩, waitLawful_iff.mpr (fun _ _ _ _ hn => ?_)⟩
      · intro _
        rw [setOrders_orders, he]
        rfl
      · cases hn
    next hc =>
      refine ⟨ho, waitLawful_iff.mpr (fun o' held' rest' he' hn => ?_)⟩
      obtain ⟨rfl, -, -⟩ := Engine.replying.inj (he.symm.trans he')
      exact hw o held rest he hn (fun hl => hc ⟨hl, hn⟩)
  next he => exact still (by rw [he]; nofun)
  next he => exact still (by rw [he]; nofun)
  next he => exact still (by rw [he]; nofun)
  next he => exact still (by rw [he]; nofun)
  next he => exact still (by rw [he]; nofun)

theorem expireTimer_orderly {s : State} (h : s.Orderly) (l : Link) : (expireTimer l s).Orderly := by
  unfold expireTimer
  dsimp only
  split
  · refine giveNotice_orderly _ ?_ (postLinkStalled_elsewhere (h.elsewhere l _) _ _ _)
    obtain ⟨ls, n, e⟩ := postLinkStalled_frame l (s.link l).sample.length (s.link l).control.length
      (s.link l).stallTime (s.setLink l (s.link l).stall)
    rw [e]
    exact h.1
  · exact h

theorem linkDown_orderly {s : State} (h : s.Orderly) (l : Link) : (linkDown l s).Orderly := by
  unfold linkDown
  split
  · exact h
  · exact giveNotice_orderly _ h.1 (h.elsewhere l _)

theorem linkUp_orderly {s : State} (h : s.Orderly) (l : Link) : (linkUp l s).Orderly := by
  unfold linkUp
  split
  next hd => exact setLink_orderly h (fun hu => by simp [hd] at hu)
  · exact h

/-- A credit return leaves a full lane full. -/
theorem LinkTx.credit_full {lk : LinkTx} (hu : lk.state = .up) (hn : Config.controlLane ≤ lk.control.length) :
    lk.credit.state = .up ∧ Config.controlLane ≤ lk.credit.control.length := by
  obtain ⟨c, x, b, n, e⟩ := LinkTx.settle_frame
    { lk with credits := min Config.maxCredits (lk.credits + 1), timer := none }
  unfold credit
  split
  · rw [e]
    exact ⟨hu, hn⟩
  next hs => simp [hu] at hs
  next hs => simp [hu] at hs

theorem recordSent_orderly {s : State} (h : s.Orderly) (l : Link) : (recordSent l s).Orderly := by
  unfold recordSent
  split
  · exact h
  next hs =>
    refine setLink_orderly h (fun hu hn => ?_)
    unfold LinkTx.sent
    rw [hs]
    dsimp only
    generalize hk : ({ s.link l with
      sample := (s.link l).sample.tail, sending := none,
      overrunArmed :=
        (s.link l).overrunArmed || decide ((s.link l).sample.tail.length ≤ Config.overrunRearm),
      counters := { (s.link l).counters with sampleSent := bump (s.link l).counters.sampleSent } } : LinkTx) = lk
    obtain ⟨c, x, b, n, e⟩ := lk.settle_frame
    rw [e, ← hk]
    exact ⟨hu, hn⟩
  · exact giveNotice_orderly _ h.1 (h.elsewhere l _)

/-! ### Frames handed to the order unit -/

/-- A frame accepted at the tail of a queue that has room and no order of its tag, and taken at once by an IDLE
engine. -/
theorem roomTest_orderly {s : State} (h : s.Orderly) {o : QueuedOrder} (hb : o.body.length = o.bodyCount)
    (hd : o.tag ≠ 0 → s.orders.queue.any (sameTag o) = false) : (roomTest o s).Orderly := by
  obtain ⟨⟨h1, h2, h3, h4, h5, h6, h7, h8⟩, hw⟩ := h
  unfold roomTest
  split
  next hn =>
    have stocked : (s.setOrders { s.orders with queue := s.orders.queue ++ [o] }).orders.Stocked := by
      refine ⟨h1, ?_, ?_, ?_, h8⟩
      · simp only [setOrders_orders, List.length_append, List.length_singleton]
        omega
      · refine List.pairwise_append.mpr ⟨h4, List.pairwise_singleton _ _, fun x hx y hy => ?_⟩
        rw [List.mem_singleton] at hy
        subst hy
        intro ht
        simpa using List.any_eq_false.mp (hd ht) x hx
      · intro q hq
        obtain hq | hq := List.mem_append.mp hq
        · exact h6 q hq
        · rw [List.mem_singleton] at hq
          subst hq
          exact hb
    by_cases he : s.orders.engine = .idle
    · have notice : s.orders.notice = none := by
        cases hk : s.orders.notice with
        | none => rfl
        | some k => simpa [he, Engine.waits] using h5 (by simp [hk])
      exact takeNext_lawful stocked he notice
    · have busy : takeNext (s.setOrders { s.orders with queue := s.orders.queue ++ [o] }) =
          s.setOrders { s.orders with queue := s.orders.queue ++ [o] } := by
        unfold takeNext
        split
        next hi _ => exact absurd hi he
        · rfl
      rw [busy]
      obtain ⟨a, b, c, d, e⟩ := stocked
      exact ⟨⟨a, b, fun hi => absurd hi he, c, h5, d, h7, e⟩, waitLawful_iff.mpr (waitLawful_iff.mp hw)⟩
  · have counted := (onCounters_keeps o.trunk (fun c => { c with shed := bump c.shed }) s).orderly
      ⟨⟨h1, h2, h3, h4, h5, h6, h7, h8⟩, hw⟩
    unfold postOrdersShed
    split
    · exact (placeEvent_keeps _ _ _).orderly (counted.of_same rfl rfl)
    · exact counted

/-- A handed frame with as many body words as it says leaves the order unit orderly (R144 to R148). -/
theorem handOrder_orderly {s : State} (h : s.Orderly) {o : QueuedOrder} (hb : o.body.length = o.bodyCount) :
    (handOrder o s).Orderly := by
  unfold handOrder
  split
  · have armed : (armRefusal o.trunk s).Orderly := h.of_same rfl rfl
    dsimp only
    split
    · exact armed
    next hd =>
      refine roomTest_orderly armed hb (fun ht => ?_)
      simpa [ht] using hd
  · have counted := (onCounters_keeps o.trunk (fun c => { c with refused := bump c.refused }) s).orderly h
    unfold postOrderRefused
    split
    · exact (placeEvent_keeps _ _ _).orderly (counted.of_same rfl rfl)
    · exact counted

theorem orderFrame_orderly {s : State} (h : s.Orderly) (t : Trunk) (w : OrderFrame) :
    (orderFrame t w s).Orderly := by
  unfold orderFrame
  dsimp only
  split
  · exact h
  · split
    next hb =>
      have ended : ∀ x g, ((s.setReceiver t x).onCounters t g).Orderly := fun _ _ => h.of_same rfl rfl
      split
      · exact handOrder_orderly (ended _ _) hb
      · exact ended _ _
    · exact h

theorem orderFrames_orderly (frames : Vector (Option OrderFrame) 4) {s : State} (h : s.Orderly) :
    (orderFrames frames s).Orderly := by
  unfold orderFrames
  generalize trunkList = ts
  induction ts generalizing s with
  | nil => exact h
  | cons t ts ih =>
    rw [List.foldl_cons]
    refine ih ?_
    split
    · exact h
    · exact orderFrame_orderly h _ _

/-! ### Replies -/

/-- The order in execution has as many body words as it says. -/
theorem State.Orderly.bodyOf {s : State} (h : s.Orderly) {o : QueuedOrder} (ho : s.orders.engine.order = some o) :
    o.body.length = o.bodyCount := h.1.2.2.2.2.2.2.1 o ho

/-- An engine that does not wait has no notice. -/
theorem State.Orderly.notice_none {s : State} (h : s.Orderly) (hw : s.orders.engine.waits = false) :
    s.orders.notice = none := by
  obtain ⟨-, -, -, -, notice, -⟩ := h.1
  cases hn : s.orders.notice with
  | none => rfl
  | some k => simp [hw, hn] at notice

/-- Reply records to the order in execution placed in any state that has the order unit's stock. -/
theorem placeReplies_orderly {s u : State} (h : s.Orderly) {o : QueuedOrder}
    (ho : s.orders.engine.order = some o) (hu : u.orders = s.orders) (final : Record)
    (later rs : List Record) : (placeReplies o final later rs u).Orderly :=
  placeReplies_lawful o (h.bodyOf ho) final later rs u (by rw [hu]; exact h.1.stocked)

/-- The engine goes on with the order in execution in another state that does not wait. -/
theorem setEngine_orderly {s u : State} (h : s.Orderly) (hu : u.orders = s.orders) {e : Engine}
    (hw : s.orders.engine.waits = false) (hn : e.waits = false) (hi : e ≠ .idle)
    (ho : ∀ q ∈ e.order, q.body.length = q.bodyCount) : (u.setEngine e).Orderly := by
  have notice := h.notice_none hw
  obtain ⟨⟨h1, h2, h3, h4, h5, h6, h7, h8⟩, -⟩ := h
  unfold State.setEngine
  rw [hu]
  refine ⟨⟨h1, h2, fun he => absurd he hi, h4, ?_, h6, ho, h8⟩, waitLawful_of_not_waits hn⟩
  simp [notice]

theorem takeNotice_orderly {s : State} (h : s.Orderly) (n : Nat) : (takeNotice n s).Orderly := by
  unfold takeNotice
  split
  next o held rest k he hn =>
    have whole := h.bodyOf (o := o) (by rw [he]; rfl)
    have stocked : (s.setOrders { s.orders with notice := none }).orders.Stocked := h.1.stocked
    dsimp only
    split
    · exact placeReplies_lawful o whole _ _ _ _ stocked
    · exact placeReplies_lawful o whole _ _ _ _ stocked
  · exact h

/-! ### Orders carried out -/

/-- Carrying out an order leaves the order unit orderly when its effects leave the unit's stock. -/
theorem carryOut_orderly {code : Nat} {perform : QueuedOrder → State → State × Reply} {s : State} (h : s.Orderly)
    (hp : ∀ o, (perform o s).1.orders.Stocked) : (carryOut code perform s).Orderly := by
  obtain e | ⟨o, rs, he, e⟩ | ⟨o, ho, e⟩ := carryOut_cases code perform s <;> rw [e]
  · exact h
  · exact placeReplies_orderly h (by rw [he]; rfl) rfl _ _ _
  · exact placeReplies_lawful o (h.bodyOf (by rw [ho.1]; rfl)) _ _ _ _ (hp o)

/-- An order whose effects leave the order unit alone. -/
theorem carryOut_orderly_of_apart {code : Nat} {perform : QueuedOrder → State → State × Reply} {s : State}
    (h : s.Orderly) (hp : ∀ o s, Apart s (perform o s).1) : (carryOut code perform s).Orderly :=
  carryOut_orderly h (fun o => by rw [(hp o s).orders]; exact h.1.stocked)

/-- A reading leaves the order unit orderly. -/
theorem carryOutUpTo_orderly {n code : Nat} {perform : QueuedOrder → State → State × Reply} {s : State}
    (h : s.Orderly) (hp : ∀ o s, (perform o s).1 = s) : (carryOutUpTo n code perform s).Orderly := by
  obtain e | ⟨o, final, later, rs, ho, e⟩ | ⟨o, ho, e⟩ := carryOutUpTo_cases n code perform s <;> rw [e]
  · exact h
  · exact placeReplies_orderly h ho rfl _ _ _
  · exact placeReplies_orderly h (by rw [ho.1]; rfl) (by rw [hp]; rfl) _ _ _

/-- Steps of an order that begins with the switch control's part. -/
theorem runSettling_orderly {s : State} (h : s.Orderly) {finish : QueuedOrder → State → State × Reply}
    (hf : ∀ o s, Apart s (finish o s).1) {o : QueuedOrder} (ho : s.orders.engine.order = some o)
    (hw : s.orders.engine.waits = false) (cause : SwitchCause) (n : Nat) (left : List Slot) :
    (runSettling cause finish o n left s).Orderly := by
  obtain ⟨u, rfl, e⟩ | ⟨u, rfl, e⟩ := runSettling_cases cause finish o n left s <;> rw [e]
  · refine setEngine_orderly h (settleFormats_keeps _ _ s).apart.orders hw rfl nofun ?_
    rintro q ⟨⟩
    exact h.bodyOf ho
  · exact placeReplies_orderly (u := (finish o (left.foldl (settleFormat cause) s)).1.draw) h ho
      ((settleFormats_keeps cause left s).apart.trans (hf o _)).orders _ _ _

theorem carryOutSettling_orderly {s : State} (h : s.Orderly) {n code : Nat} {cause : SwitchCause}
    {check : QueuedOrder → State → Except Reply (List Slot)} {finish : QueuedOrder → State → State × Reply}
    (hf : ∀ o s, Apart s (finish o s).1) : (carryOutSettling n code cause check finish s).Orderly := by
  obtain e | ⟨o, rs, he, e⟩ | ⟨o, rs, ho, e⟩ | ⟨o, fs, ho, -, e⟩ | ⟨o, left, he, -, e⟩ :=
    carryOutSettling_cases n code cause check finish s <;> rw [e]
  · exact h
  · exact placeReplies_orderly h (by rw [he]; rfl) rfl _ _ _
  · exact placeReplies_orderly (u := s.draw) h (by rw [ho.1]; rfl) rfl _ _ _
  · exact runSettling_orderly h hf (by rw [ho.1]; rfl) (by rw [ho.1]; rfl) _ _ _
  · exact runSettling_orderly h hf (by rw [he]; rfl) (by rw [he]; rfl) _ _ _

theorem unknownOrder_orderly {s : State} (h : s.Orderly) : (unknownOrder s).Orderly := by
  unfold unknownOrder
  split
  next o he =>
    split
    · exact h
    · exact placeReplies_orderly (u := s.draw) h (by rw [he]; rfl) rfl _ _ _
  · exact h
  · exact h
  · exact h
  · exact h
  · exact h

/-- An accepted SET_ORDER_ACCEPT leaves an accept set with the arriving trunk in it (R172). -/
theorem setOrderAcceptOrder_stocked {s : State} (h : s.orders.Stocked) (o : QueuedOrder) :
    (setOrderAcceptOrder o s).1.orders.Stocked := by
  unfold setOrderAcceptOrder
  dsimp only
  split
  · exact h
  · split
    · exact h
    next hi =>
      refine ⟨fun h0 => hi ?_, h.2⟩
      have empty : (o.word 0).setWidth 4 = 0 := h0
      simp [inTrunks, empty]

/-- The steps of RESTART, made while the engine has an order and does not wait. -/
theorem runRestart_orderly {s : State} (h : s.Orderly) {o : QueuedOrder}
    (ho : s.orders.engine.order = some o) (hw : s.orders.engine.waits = false) (arrived : Vector Nat 4) (n : Nat) :
    ∀ (left : List RestartStep) (u : State), u.orders = s.orders → (runRestart o arrived n left u).Orderly := by
  induction n with
  | zero =>
    intro left u hu
    cases left with
    | nil => exact placeReplies_orderly h ho hu _ _ _
    | cons x rest =>
      refine setEngine_orderly h hu hw rfl nofun ?_
      rintro q ⟨⟩
      exact h.bodyOf ho
  | succ n ih =>
    intro left u hu
    match left with
    | [] => exact placeReplies_orderly h ho hu _ _ _
    | [x] => exact placeReplies_orderly h ho ((restartStep_apart arrived u x).orders.trans hu) _ _ _
    | x :: y :: rest => exact ih _ _ ((restartStep_apart arrived u x).orders.trans hu)

theorem restartOrder_orderly {s : State} (h : s.Orderly) (n : Nat) (arrived : Vector Nat 4) :
    (restartOrder n arrived s).Orderly := by
  unfold restartOrder
  split
  · obtain e | ⟨o, rs, he, e⟩ | ⟨o, ho, e⟩ := takeUp_cases 0x3F
      (fun o u => runRestart o arrived n restartSteps u) s <;> rw [e]
    · exact h
    · exact placeReplies_orderly h (by rw [he]; rfl) rfl _ _ _
    · exact runRestart_orderly h (by rw [ho.1]; rfl) (by rw [ho.1]; rfl) arrived n _ s rfl
  next o left he => exact runRestart_orderly h (by rw [he]; rfl) (by rw [he]; rfl) arrived n left s rfl
  · exact h
  · exact h
  · exact h
  · exact h

/-! ### The other commands -/

theorem changeReceiver_orderly {s : State} (h : s.Orderly) (t : Trunk) (y : Receiver) :
    (changeReceiver t y s).Orderly := by
  unfold changeReceiver
  split
  · exact h.of_same rfl rfl
  · exact (postEvent_keeps _ _ _ _ _).orderly (s := s.setReceiver t y) (h.of_same rfl rfl)

theorem syncCandidate_orderly {s : State} (h : s.Orderly) (t : Trunk) (start : Nat) (bits : Window) :
    (syncCandidate t start bits s).Orderly := by
  unfold syncCandidate
  dsimp only
  split
  · split
    · exact changeReceiver_orderly h _ _
    · exact h.of_same rfl rfl
  · exact h

theorem boundaryComparison_orderly {s : State} (h : s.Orderly) (t : Trunk) (bits : Window) :
    (boundaryComparison t bits s).Orderly := by
  unfold boundaryComparison
  dsimp only
  split
  · exact h
  · split
    · split
      · exact (trackerEnded_keeps _ _).orderly (changeReceiver_orderly h _ _)
      · exact changeReceiver_orderly h _ _
    · exact h

theorem markerMatch_orderly {s : State} (h : s.Orderly) (t : Trunk) (start : Nat) (bits : BitVec 32) :
    (markerMatch t start bits s).Orderly := by
  unfold markerMatch
  dsimp only
  split
  · exact h.of_same rfl rfl
  · exact h

theorem minorFrame_orderly {s : State} (h : s.Orderly) (t : Trunk) (words : List Word) :
    (minorFrame t words s).Orderly := by
  unfold minorFrame
  dsimp only
  split
  · exact h
  · split
    · refine (trackerFrame_keeps _ _ _ _).orderly ?_
      exact h.of_same rfl rfl
    · exact h

theorem passUnit_orderly {s : State} (h : s.Orderly) : (passUnit s).Orderly := by
  have counted : ((s.setLink 0 (s.link 0).countDown).setLink 1 (s.link 1).countDown).Orderly := by
    have first : (s.setLink 0 (s.link 0).countDown).Orderly := setLink_orderly h (fun a b => ⟨a, b⟩)
    have same : (s.setLink 0 (s.link 0).countDown).link 1 = s.link 1 := setLink_link_ne _ _ _ _ (by decide)
    refine setLink_orderly first ?_
    rw [same]
    exact fun a b => ⟨a, b⟩
  have drawn : ∀ u : State, u.Orderly → u.draw.Orderly := fun u hu => hu.of_same rfl rfl
  unfold passUnit
  dsimp only
  split
  · split
    · exact drawn _ (expireTimer_orderly (expireTimer_orderly counted 0) 1)
    · exact drawn _ (expireTimer_orderly (expireTimer_orderly counted 1) 0)
  · split
    · exact expireTimer_orderly counted 0
    · split
      · exact expireTimer_orderly counted 1
      · exact counted

theorem released_orderly (ready0 ready1 : Bool) (s : State) : (releasedState ready0 ready1 s).Orderly := by
  have memory : ∀ t, pick (releasedState ready0 ready1 s).orders.memory t = none := fun t => pick_replicate _ t
  have accept : OrderUnit.powerOn.accept ≠ 0 := by decide
  refine ⟨⟨accept, Nat.zero_le _, fun _ => rfl, List.Pairwise.nil, nofun, nofun, nofun, fun t m hm => ?_⟩, rfl⟩
  rw [memory] at hm
  cases hm

/-! ### The step -/

/-- Every command leaves the order unit orderly. -/
theorem exec_orderly {c : Instr} {s u : State} (hs : s.Orderly) (h : exec c s = .next u) : u.Orderly := by
  cases c <;> cases h
  case powerOnReset ready0 ready1 => exact released_orderly ready0 ready1 s
  case syncCandidateMatch t start bits => exact syncCandidate_orderly hs t start bits
  case expectedBoundaryComparison t bits => exact boundaryComparison_orderly hs t bits
  case orderMarkerMatch t start bits => exact markerMatch_orderly hs t start bits
  case orderFrameReceived t header control body check others => exact orderFrames_orderly _ hs
  case minorFrameDelivered t words => exact minorFrame_orderly hs t words
  case waitingFrameProcessed t => exact (waitingFrame_keeps t s).orderly hs
  case linkUp l => exact linkUp_orderly hs l
  case linkDown l => exact linkDown_orderly hs l
  case creditReturn l => exact setLink_orderly hs LinkTx.credit_full
  case stallTimerExpiry l => exact expireTimer_orderly hs l
  case recordSent l => exact recordSent_orderly hs l
  case roomNotice records => exact takeNotice_orderly hs records
  case unknownOrder => exact unknownOrder_orderly hs
  case echo => exact carryOut_orderly_of_apart hs (fun _ s => Apart.refl s)
  case setTrunk arrived steps => exact carryOutSettling_orderly hs (setTrunkFinish_apart arrived)
  case bindSource => exact carryOut_orderly_of_apart hs bindSourceOrder_apart
  case unbindSource steps => exact carryOutSettling_orderly hs unbindFinish_apart
  case stageHeader => exact carryOut_orderly_of_apart hs (fun o => stagingOrder_apart (placeHeader_apart _) o)
  case stageSlots => exact carryOut_orderly_of_apart hs (fun o => stagingOrder_apart (placeSlots_apart _) o)
  case stageParams => exact carryOut_orderly_of_apart hs (fun o => stagingOrder_apart (placeParams_apart _) o)
  case discardStage => exact carryOut_orderly_of_apart hs discardStageOrder_apart
  case commit => exact carryOut_orderly_of_apart hs commitOrder_apart
  case cancelCommit => exact carryOut_orderly_of_apart hs cancelCommitOrder_apart
  case tuneParam => exact carryOut_orderly_of_apart hs tuneParamOrder_apart
  case readParam =>
    exact carryOut_orderly_of_apart hs (fun o s => (readParamOrder_state o s).symm ▸ Apart.refl s)
  case readBank records => exact carryOutUpTo_orderly hs readBankOrder_state
  case readStatus records => exact carryOutUpTo_orderly hs readStatusOrder_state
  case clearCounters => exact carryOut_orderly_of_apart hs clearCountersOrder_apart
  case setOrderAccept => exact carryOut_orderly hs (setOrderAcceptOrder_stocked hs.1.stocked)
  case setEvents => exact carryOut_orderly_of_apart hs setEventsOrder_apart
  case restart steps arrived => exact restartOrder_orderly hs steps arrived

/-- Settles O60: the order unit stays orderly through every command and every unit of time. -/
theorem stepKeepsOrdersLawful : Obligations.StepKeepsOrdersLawful := by
  unfold Obligations.StepKeepsOrdersLawful
  intro s u orders wait h
  unfold step at h
  split at h
  · cases h
    exact passUnit_orderly ⟨orders, wait⟩
  next c rest _ => exact exec_orderly (s := { s with pending := rest }) ⟨orders, wait⟩ h

/-! ### The commands behind a command -/

theorem giveNotice_pending (l : Link) (n : RoomNotice) (s : State) : (giveNotice l n s).pending = s.pending := by
  obtain ⟨k, e⟩ := giveNotice_frame l n s
  rw [e]

theorem expireTimer_pending (l : Link) (s : State) : (expireTimer l s).pending = s.pending := by
  obtain ⟨ls, n, k, e⟩ := expireTimer_frame l s
  rw [e]

theorem handOrder_pending (o : QueuedOrder) (s : State) : (handOrder o s).pending = s.pending := by
  obtain ⟨xs, ls, ev, e, q, h⟩ := handOrder_frame o s
  rw [h]

theorem placeReplies_pending (o : QueuedOrder) (final : Record) (later rs : List Record) (s : State) :
    (placeReplies o final later rs s).pending = s.pending := by
  obtain ⟨ls, e, q, n, m, b, h⟩ := placeReplies_frame o final later rs s
  rw [h]

theorem syncCandidate_pending (t : Trunk) (start : Nat) (bits : Window) (s : State) :
    (syncCandidate t start bits s).pending = s.pending := by
  unfold syncCandidate
  dsimp only
  split
  · split
    · exact (changeReceiver_apart _ _ _).pending
    · rfl
  · rfl

theorem boundaryComparison_pending (t : Trunk) (bits : Window) (s : State) :
    (boundaryComparison t bits s).pending = s.pending := by
  unfold boundaryComparison
  dsimp only
  split
  · rfl
  · split
    · split
      · exact ((changeReceiver_apart _ _ _).trans (trackerEnded_keeps _ _).apart).pending
      · exact (changeReceiver_apart _ _ _).pending
    · rfl

theorem markerMatch_pending (t : Trunk) (start : Nat) (bits : BitVec 32) (s : State) :
    (markerMatch t start bits s).pending = s.pending := by
  unfold markerMatch
  dsimp only
  split <;> rfl

theorem orderFrame_pending (t : Trunk) (w : OrderFrame) (s : State) : (orderFrame t w s).pending = s.pending := by
  unfold orderFrame
  dsimp only
  split
  · rfl
  · split
    · split
      · exact handOrder_pending _ _
      · rfl
    · rfl

theorem orderFrames_pending (frames : Vector (Option OrderFrame) 4) (s : State) :
    (orderFrames frames s).pending = s.pending := by
  unfold orderFrames
  generalize trunkList = ts
  induction ts generalizing s with
  | nil => rfl
  | cons t ts ih =>
    rw [List.foldl_cons, ih]
    split
    · rfl
    · exact orderFrame_pending _ _ _

theorem minorFrame_pending (t : Trunk) (words : List Word) (s : State) :
    (minorFrame t words s).pending = s.pending := by
  unfold minorFrame
  dsimp only
  split
  · rfl
  · split
    · exact (trackerFrame_keeps _ _ _ _).apart.pending
    · rfl

theorem recordSent_pending (l : Link) (s : State) : (recordSent l s).pending = s.pending := by
  unfold recordSent
  split
  · rfl
  · rfl
  · exact giveNotice_pending _ _ _

theorem linkUp_pending (l : Link) (s : State) : (linkUp l s).pending = s.pending := by
  unfold linkUp
  split <;> rfl

theorem linkDown_pending (l : Link) (s : State) : (linkDown l s).pending = s.pending := by
  unfold linkDown
  split
  · rfl
  · exact giveNotice_pending _ _ _

/-- Nothing that a reply changes is the queue of commands. -/
theorem pending_composes : Composes (fun s u => u.pending = s.pending) where
  refl _ := rfl
  trans h k := k.trans h
  draw _ := rfl
  orders _ _ := rfl
  replies := placeReplies_pending

theorem settleFormat_pending (cause : SwitchCause) (s : State) (f : Slot) :
    (settleFormat cause s f).pending = s.pending := (settleFormat_keeps cause s f).apart.pending

theorem setOrderAcceptOrder_pending (o : QueuedOrder) (s : State) :
    (setOrderAcceptOrder o s).1.pending = s.pending := by
  unfold setOrderAcceptOrder
  dsimp only
  split
  · rfl
  · split <;> rfl

/-- No command stops the part. -/
theorem exec_next (c : Instr) (s : State) : ∃ u, exec c s = .next u := by
  cases c <;> exact ⟨_, rfl⟩

/-- Every command leaves the commands behind it waiting. -/
theorem exec_pending {c : Instr} {s u : State} (h : exec c s = .next u) : u.pending = s.pending := by
  cases c <;> cases h
  case powerOnReset ready0 ready1 => rfl
  case syncCandidateMatch t start bits => exact syncCandidate_pending t start bits s
  case expectedBoundaryComparison t bits => exact boundaryComparison_pending t bits s
  case orderMarkerMatch t start bits => exact markerMatch_pending t start bits s
  case orderFrameReceived t header control body check others => exact orderFrames_pending _ s
  case minorFrameDelivered t words => exact minorFrame_pending t words s
  case waitingFrameProcessed t => exact (waitingFrame_keeps t s).apart.pending
  case linkUp l => exact linkUp_pending l s
  case linkDown l => exact linkDown_pending l s
  case creditReturn l => rfl
  case stallTimerExpiry l => exact expireTimer_pending l s
  case recordSent l => exact recordSent_pending l s
  case roomNotice records => exact pending_composes.takeNotice records s
  case unknownOrder => exact pending_composes.unknownOrder s
  case echo => exact pending_composes.carryOut (fun _ _ => rfl) s
  case setTrunk arrived steps =>
    exact pending_composes.carryOutSettling (settleFormat_pending _)
      (fun o s => (setTrunkFinish_apart arrived o s).pending) s
  case bindSource => exact pending_composes.carryOut (fun o s => (bindSourceOrder_apart o s).pending) s
  case unbindSource steps =>
    exact pending_composes.carryOutSettling (settleFormat_pending _) (fun o s => (unbindFinish_apart o s).pending) s
  case stageHeader =>
    exact pending_composes.carryOut (fun o s => (stagingOrder_apart (placeHeader_apart _) o s).pending) s
  case stageSlots =>
    exact pending_composes.carryOut (fun o s => (stagingOrder_apart (placeSlots_apart _) o s).pending) s
  case stageParams =>
    exact pending_composes.carryOut (fun o s => (stagingOrder_apart (placeParams_apart _) o s).pending) s
  case discardStage => exact pending_composes.carryOut (fun o s => (discardStageOrder_apart o s).pending) s
  case commit => exact pending_composes.carryOut (fun o s => (commitOrder_apart o s).pending) s
  case cancelCommit => exact pending_composes.carryOut (fun o s => (cancelCommitOrder_apart o s).pending) s
  case tuneParam => exact pending_composes.carryOut (fun o s => (tuneParamOrder_apart o s).pending) s
  case readParam => exact pending_composes.carryOut (fun o s => by rw [readParamOrder_state]) s
  case readBank records => exact pending_composes.carryOutUpTo readBankOrder_state s
  case readStatus records => exact pending_composes.carryOutUpTo readStatusOrder_state s
  case clearCounters => exact pending_composes.carryOut (fun o s => (clearCountersOrder_apart o s).pending) s
  case setOrderAccept => exact pending_composes.carryOut setOrderAcceptOrder_pending s
  case setEvents => exact pending_composes.carryOut (fun o s => (setEventsOrder_apart o s).pending) s
  case restart steps arrived =>
    exact pending_composes.restartOrder (fun s x => (restartStep_apart arrived s x).pending) steps s

/-- Settles O2: no command stops the part, and none touches the queue of commands. -/
theorem everyCommandHasANextState : Obligations.EveryCommandHasANextState := by
  unfold Obligations.EveryCommandHasANextState
  intro c s
  obtain ⟨u, h⟩ := exec_next c s
  exact ⟨u, h, exec_pending h⟩

/-- Settles O1: the front of the queue decides the step. -/
theorem stepRunsFrontCommand : Obligations.StepRunsFrontCommand := by
  unfold Obligations.StepRunsFrontCommand
  intro c rest s h
  unfold step
  rw [h]

/-! ### Power-on reset -/

/-- A link released from power-on reset, item by item (R117, R131). -/
theorem LinkTx.released_eq (ready : Bool) :
    LinkTx.released ready =
      { state := if ready then .up else .down, ready := ready, credits := 0, control := [], sample := [],
        sending := none, burst := 0, overrunArmed := true, stallTime := 250, timer := none,
        counters := LinkCounters.zero } := by
  cases ready <;> rfl

theorem released_link (ready0 ready1 : Bool) (s : State) (l : Link) :
    (releasedState ready0 ready1 s).link l = LinkTx.released (if l = 0 then ready0 else ready1) := by
  fin_cases l <;> rfl

/-- Settles O3: the blocks of the released state, one by one. -/
theorem powerOnResetState : Obligations.PowerOnResetState := by
  unfold Obligations.PowerOnResetState
  intro r0 r1 s
  refine ⟨releasedState r0 r1 s, rfl, fun t => ?receivers, fun f => ?formats, rfl, rfl, ?links, rfl, rfl, rfl, rfl,
    rfl, fun t => pick_replicate _ t⟩
  case receivers =>
    rw [released_receiver, released_tracker]
    exact ⟨rfl, rfl, rfl, rfl, rfl, rfl, rfl, rfl, rfl, rfl, rfl, released_row r0 r1 s t⟩
  case formats => exact ⟨released_format r0 r1 s f, pick_replicate _ f, pick_replicate _ f⟩
  case links =>
    rintro l ready rfl
    rw [released_link, LinkTx.released_eq]
    rfl

end Sys2Proof.Machine
end

section
/-! PROOFS. Format slots across every step: their own laws, the laws of their bindings, and the parameter numbers
that they keep apart (R40, R41, R62, R66, R73); and from these the obligation O58. -/

namespace Sys2Proof.Machine

/-- `u` has lawful formats when `s` has, and then keeps parameter numbers apart when `s` does. -/
def Forms (s u : State) : Prop := s.FormatsLawful → u.FormatsLawful ∧ (s.NumbersApart → u.NumbersApart)

theorem Forms.refl (s : State) : Forms s s := fun h => ⟨h, id⟩

theorem Forms.trans {s u v : State} (h : Forms s u) (k : Forms u v) : Forms s v := fun hs =>
  ⟨(k (h hs).1).1, fun ha => (k (h hs).1).2 ((h hs).2 ha)⟩

/-! ### Numbers apart -/

/-- Whether a bank defines a number. -/
theorem Bank.definition?_isSome_iff {b : Bank} {n : Nat} :
    (b.definition? n).isSome = true ↔ n ∈ b.params.map (fun d => d.number) := by
  simp [definition?]

/-- The numbers that a format slot claims: those of its active bank, and of its standby when it is ARMED or in
FALLBACK on probation (R66). -/
theorem FormatSlot.claims_iff {x : FormatSlot} {n : Nat} :
    x.claims n = true ↔
      n ∈ x.activeBank.params.map (fun d => d.number) ∨
        x.isPending = true ∧ n ∈ x.standbyBank.params.map (fun d => d.number) := by
  simp only [claims, isPending, Bool.or_eq_true, Bool.and_eq_true, Bank.definition?_isSome_iff]

/-- A number that a format slot claims is defined in one of its banks. -/
theorem FormatSlot.defined_of_claims {x : FormatSlot} {n : Nat} (h : x.claims n = true) :
    ∃ d ∈ x.bankA.params ++ x.bankB.params, d.number = n := by
  have banks : ∀ d, d ∈ x.activeBank.params ∨ d ∈ x.standbyBank.params → d ∈ x.bankA.params ++ x.bankB.params := by
    intro d hd
    obtain ⟨a, b⟩ | ⟨a, b⟩ := x.banks_cases <;> rw [a, b, List.mem_append]
    · exact hd
    · exact hd.symm
  obtain h | ⟨-, h⟩ := claims_iff.mp h <;> obtain ⟨d, hd, rfl⟩ := List.mem_map.mp h
  · exact ⟨d, banks d (.inl hd), rfl⟩
  · exact ⟨d, banks d (.inr hd), rfl⟩

/-- Numbers are apart when no two format slots claim one number. -/
theorem numbersApart_iff {s : State} :
    s.NumbersApart ↔
      ∀ f g : Slot, f ≠ g → ∀ n, (s.format f).claims n = true → (s.format g).claims n = false := by
  constructor
  · intro h f g hfg n hn
    obtain ⟨d, hd, rfl⟩ := FormatSlot.defined_of_claims hn
    exact h f g hfg d hd hn
  · intro h f g hfg d _ hn
    exact h f g hfg d.number hn

/-- One format slot replaced by one that claims no number of the others. -/
theorem numbersApart_of_slot {s u : State} {f : Slot} {y : FormatSlot}
    (hf : ∀ g, u.format g = if f = g then y else s.format g)
    (hy : ∀ n, y.claims n = true → ∀ g, f ≠ g → (s.format g).claims n = false) (h : s.NumbersApart) :
    u.NumbersApart := by
  rw [numbersApart_iff] at h ⊢
  intro a b hab n ha
  rw [hf] at ha ⊢
  split at ha
  next hfa =>
    rw [if_neg (hfa ▸ hab)]
    exact hy n ha b (hfa ▸ hab)
  next hfa =>
    split
    next hfb =>
      cases hn : y.claims n with
      | false => rfl
      | true => rw [hy n hn a hfa] at ha; cases ha
    · exact h a b hab n ha

/-! ### Rows and bindings -/

theorem mem_rowList (r : RowIx) : r ∈ rowList := by
  revert r
  decide

theorem mem_slotList (f : Slot) : f ∈ slotList := by
  revert f
  decide

/-- A row that stands in the place of another: bound alike, and formatted when that was. -/
def Row.Like (y x : Row) : Prop := y.key = x.key ∧ (y.cycle = .unformatted ↔ x.cycle = .unformatted)

theorem Row.Like.refl (x : Row) : x.Like x := ⟨rfl, Iff.rfl⟩

/-- Every row of `u` is bound as it is in `s`. -/
abbrev RowsBound (s u : State) : Prop := ∀ t r y, u.row t r = some y → ∃ x, s.row t r = some x ∧ y.key = x.key

/-- Bindings stay lawful while every row is bound as before and no tag position is another. -/
theorem bindingsLawful_of_bound {s u : State} (hr : RowsBound s u)
    (ht : ∀ t, (u.receiver t).profile.tagPos = (s.receiver t).profile.tagPos) (h : s.BindingsLawful) :
    u.BindingsLawful := by
  have back : ∀ {t r y}, u.row t r = some y → ∃ x, s.row t r = some x ∧ y.format = x.format ∧ y.tag = x.tag := by
    intro t r y hy
    obtain ⟨x, hx, hk⟩ := hr t r y hy
    exact ⟨x, hx, congrArg Prod.fst hk, congrArg Prod.snd hk⟩
  obtain ⟨formats, untagged, tags⟩ := h
  refine ⟨?_, ?_, ?_⟩
  · intro t t' r r' y hy y' hy' hf
    obtain ⟨x, hx, e, -⟩ := back hy
    obtain ⟨x', hx', e', -⟩ := back hy'
    exact formats t t' r r' x hx x' hx' (e ▸ e' ▸ hf)
  · intro t r h0 hr0
    rw [ht] at h0
    cases hy : u.row t r with
    | none => rfl
    | some y =>
      obtain ⟨x, hx, -⟩ := back hy
      rw [untagged t r h0 hr0] at hx
      cases hx
  · intro t r r' y hy y' hy' v hv hv'
    obtain ⟨x, hx, -, e⟩ := back hy
    obtain ⟨x', hx', -, e'⟩ := back hy'
    exact tags t r r' x hx x' hx' v (e ▸ hv) (e' ▸ hv')

/-- A change of rows alone, each standing in the place of the one before. -/
theorem Forms.of_rows {s u : State}
    (hf : ∀ f, u.format f = s.format f)
    (ht : ∀ t, (u.receiver t).profile.tagPos = (s.receiver t).profile.tagPos)
    (hr : ∀ t r y, u.row t r = some y → ∃ x, s.row t r = some x ∧ y.Like x) : Forms s u := by
  rintro ⟨bindings, store, slots, formatted⟩
  refine ⟨⟨bindingsLawful_of_bound ?_ ht bindings, fun f => ?_, fun f => ?_, ?_⟩, fun ha f g => ?_⟩
  · intro t r y hy
    obtain ⟨x, hx, hk, -⟩ := hr t r y hy
    exact ⟨x, hx, hk⟩
  · rw [hf]; exact store f
  · rw [hf]; exact slots f
  · intro t r y hy
    obtain ⟨x, hx, hk, hc⟩ := hr t r y hy
    have same : y.format = x.format := congrArg Prod.fst hk
    rw [hc, State.activeBank, hf, same]
    exact formatted t r x hx
  · rw [hf, hf]; exact ha f g

/-- A change that touches neither format slots, rows nor tag positions. -/
theorem Forms.of_same {s u : State} (hf : u.formats = s.formats) (ht : u.trackers = s.trackers)
    (hr : ∀ t, (u.receiver t).profile.tagPos = (s.receiver t).profile.tagPos) : Forms s u := by
  refine Forms.of_rows (fun f => ?_) hr (fun t r y hy => ⟨y, ?_, Row.Like.refl y⟩)
  · rw [State.format, hf]; rfl
  · rw [State.row, State.tracker, ht] at hy; exact hy

/-- One format slot replaced by a lawful one that claims no number of the others, with the same banks; the row bound
to it, where there is one, is formatted when the slot is. -/
theorem Forms.of_slot {s u : State} {f : Slot} {y : FormatSlot}
    (hf : ∀ g, u.format g = if f = g then y else s.format g)
    (ht : ∀ t, (u.receiver t).profile.tagPos = (s.receiver t).profile.tagPos)
    (hs : s.StoreLawful → u.StoreLawful)
    (hr : ∀ t r z, u.row t r = some z → ∃ x, s.row t r = some x ∧ z.key = x.key ∧
      if f = x.format then
        (s.FormatsLawful → (z.cycle = .unformatted ↔ y.activeBank.header = none))
      else (z.cycle = .unformatted ↔ x.cycle = .unformatted))
    (hy : s.FormatsLawful → y.Lawful)
    (hc : s.NumbersApart → ∀ n, y.claims n = true → ∀ g, f ≠ g → (s.format g).claims n = false) : Forms s u := by
  intro h
  obtain ⟨bindings, store, slots, formatted⟩ := h
  refine ⟨⟨bindingsLawful_of_bound ?_ ht bindings, hs store, fun g => ?_, ?_⟩,
    fun ha => numbersApart_of_slot hf (hc ha) ha⟩
  · intro t r z hz
    obtain ⟨x, hx, hk, -⟩ := hr t r z hz
    exact ⟨x, hx, hk⟩
  · rw [hf]
    split
    · exact hy ⟨bindings, store, slots, formatted⟩
    · exact slots g
  · intro t r z hz
    obtain ⟨x, hx, hk, hc⟩ := hr t r z hz
    have same : z.format = x.format := congrArg Prod.fst hk
    rw [State.activeBank, hf, same]
    split
    next hfx =>
      rw [if_pos hfx] at hc
      exact hc ⟨bindings, store, slots, formatted⟩
    next hfx =>
      rw [if_neg hfx] at hc
      rw [hc]
      exact formatted t r x hx

/-! ### Changes of one row -/

theorem postEvent_forms (k : EventKind) (subject : Word) (cc : Count) (details : List Word) (s : State) :
    Forms s (postEvent k subject cc details s) := by
  obtain ⟨formats, trackers⟩ := postEvent_formats k subject cc details s
  refine Forms.of_same formats trackers (fun t => ?_)
  obtain ⟨c, e⟩ := (postEvent_keeps k subject cc details s).receivers t
  rw [e]

/-- A row put in the place of another. -/
theorem setRow_forms {s : State} {t : Trunk} {r : RowIx} {x y : Row} (hx : s.row t r = some x) (hy : y.Like x) :
    Forms s (s.setRow t r (some y)) := by
  refine Forms.of_rows (fun _ => rfl) (fun _ => rfl) (fun t' r' z hz => ?_)
  rw [setRow_row] at hz
  split at hz
  next h =>
    obtain ⟨rfl, rfl⟩ := h
    cases hz
    exact ⟨x, hx, hy⟩
  · exact ⟨z, hz, Row.Like.refl z⟩

/-- A row made vacant. -/
theorem vacate_forms (t : Trunk) (r : RowIx) (s : State) : Forms s (s.setRow t r none) := by
  refine Forms.of_rows (fun _ => rfl) (fun _ => rfl) (fun t' r' z hz => ?_)
  rw [setRow_row] at hz
  split at hz
  · cases hz
  · exact ⟨z, hz, Row.Like.refl z⟩

theorem onRow_forms {t : Trunk} {r : RowIx} {g : Row → Row} (s : State) (hg : ∀ x, (g x).Like x) :
    Forms s (s.onRow t r g) := by
  unfold State.onRow
  split
  · exact Forms.refl s
  next hx => exact setRow_forms hx (hg _)

theorem changeRow_forms {t : Trunk} {r : RowIx} {g : Row → Row} {s : State}
    (hg : ∀ x, s.row t r = some x → (g x).Like x) : Forms s (changeRow t r g s) := by
  unfold changeRow
  split
  · exact Forms.refl s
  next x hx =>
    split
    · exact setRow_forms hx (hg x hx)
    · exact (setRow_forms hx (hg x hx)).trans (postEvent_forms _ _ _ _ _)

theorem setContexts_forms (f : Slot) (cs : List Context) (s : State) : Forms s (s.setContexts f cs) :=
  Forms.of_same rfl rfl (fun _ => rfl)

theorem breakCounted_forms (f : Slot) (t : Trunk) (r : RowIx) (s : State) : Forms s (breakCounted f t r s) := by
  have counted : Forms s
      (s.onRow t r (fun x => { x with broken := addTally x.broken (partialCount (s.contextsOf f)) })) :=
    onRow_forms s (fun x => Row.Like.refl x)
  exact counted.trans (setContexts_forms _ _ _)

theorem routeFrame_forms (t : Trunk) (r : RowIx) (st : Standing) (words : List Word) (mark : Bool) (s : State) :
    Forms s (routeFrame t r st words mark s) := by
  obtain ⟨cs, rs, ls, n, e⟩ := routeFrame_frame t r st words mark s
  rw [e]
  exact Forms.of_same rfl rfl (fun _ => rfl)

theorem onCounters_forms (t : Trunk) (g : TrunkCounters → TrunkCounters) (s : State) :
    Forms s (s.onCounters t g) := by
  refine Forms.of_same rfl rfl (fun k => ?_)
  obtain ⟨c, e⟩ := (onCounters_keeps t g s).receivers k
  rw [e]

theorem setWaiting_forms (t : Trunk) (w : List Waiting) (s : State) : Forms s (s.setWaiting t w) :=
  Forms.of_rows (fun _ => rfl) (fun _ => rfl)
    (fun t' r' y hy => ⟨y, by rw [setWaiting_row] at hy; exact hy, Row.Like.refl y⟩)

/-! ### Switches and probations -/

/-- No item fails when every item passes. -/
theorem firstFailing_eq_none_iff {α : Type} {ok : α → Bool} {i : Nat} {xs : List α} :
    firstFailing ok i xs = none ↔ ∀ x ∈ xs, ok x = true := by
  induction xs generalizing i with
  | nil => simp [firstFailing]
  | cons x xs ih =>
    rw [firstFailing, List.forall_mem_cons]
    split
    next hx => simp [hx, ih]
    next hx => simp [hx]

/-- A header in range (R42). -/
theorem headerFailure_eq_none_iff {h : Header} :
    headerFailure h = none ↔
      (1 ≤ h.length ∧ h.length ≤ 256) ∧ ((if h.length = 1 then 0 else 1) ≤ h.idPos ∧ h.idPos ≤ 1024) ∧
        h.idBase ≤ 1 ∧ (1 ≤ h.verify ∧ h.verify ≤ 8) ∧ (1 ≤ h.missLimit ∧ h.missLimit ≤ 8) ∧ h.probation ≤ 15 := by
  simp [headerFailure, firstFailing_eq_none_iff, within_eq_true]

/-- The format slot after a switch is lawful when the new active bank has a header, and on a commit the old one too
(R40, R41, R69). -/
theorem FormatSlot.switched_lawful {x : FormatSlot} {cause : SwitchCause} (h : x.Lawful)
    (hb : x.standbyBank.Lawful) (hs : x.standbyBank.header.isSome = true)
    (hc : cause = .commit → x.activeBank.header.isSome = true) : (x.switched cause).Lawful := by
  obtain ⟨empty, -, -, -, -⟩ := h
  have active := switched_activeBank x cause
  have standby := switched_standbyBank x cause
  have state : (x.switched cause).standby = standbyAfter cause x.activeBank := rfl
  have probation : (x.switched cause).probation = probationAfter cause x.standbyBank := rfl
  have left : standbyAfter cause x.activeBank =
      if cause = .revert then .staging else if x.activeBank.committed then .fallback else .empty := by
    cases cause <;> rfl
  unfold FormatSlot.Lawful
  rw [active, standby, state, probation, left]
  refine ⟨fun hn => ?_, fun he => ?_, fun hf => ?_, fun _ => hs, fun n hn => ?_⟩
  · rw [hn] at hs; cases hs
  · split at he
    · cases he
    · split at he
      · cases he
      next hcm => exact empty (by simpa [Bank.committed] using hcm)
  · split at hf
    · simp at hf
    · split at hf
      next hcm => exact hcm
      · simp at hf
  · cases cause <;> try cases hn
    obtain ⟨hd, he⟩ := Option.isSome_iff_exists.mp hs
    simp only [probationAfter, he, Option.mem_def] at hn
    split at hn
    next hp =>
      cases hn
      have bound : headerFailure hd = none := hb.1 hd he
      obtain ⟨-, -, -, -, -, le⟩ := headerFailure_eq_none_iff.mp bound
      simp only [reduceCtorEq, if_false, Bank.committed, hc rfl, if_true]
      exact ⟨hp, le, trivial⟩
    · cases hn

/-- A format slot is settled exactly when no number of its standby is claimed. -/
theorem FormatSlot.isPending_iff {x : FormatSlot} (h : x.Lawful) : x.isPending = true ↔ x.settled = false := by
  obtain ⟨-, -, -, -, probation⟩ := h
  cases hp : x.probation with
  | none => cases hs : x.standby <;> simp [isPending, settled, hp, hs]
  | some n =>
    have := (probation n hp).2.2
    simp [isPending, settled, hp, this]

/-- A switch of a format slot that claims its standby's numbers claims none besides. -/
theorem FormatSlot.switched_claims {x : FormatSlot} {cause : SwitchCause} (hx : x.isPending = true) {n : Nat}
    (h : (x.switched cause).claims n = true) : x.claims n = true := by
  rw [claims_iff, switched_activeBank, switched_standbyBank] at h
  rw [claims_iff]
  obtain h | ⟨-, h⟩ := h
  · exact .inr ⟨hx, h⟩
  · exact .inl h

/-- A switch on any cause but a commit leaves neither an ARMED standby nor a probation (R69). -/
theorem FormatSlot.switched_settled {x : FormatSlot} {cause : SwitchCause} (h : cause ≠ .commit) :
    (x.switched cause).settled = true := by
  cases cause with
  | commit => exact absurd rfl h
  | revert => rfl
  | immediate | unlock | unbind | order =>
    cases hb : x.activeBank.committed <;> simp [settled, switched, standbyAfter, probationAfter, hb]

/-- A switch of a format slot whose standby has a header and clashes with no other slot, and whose active bank has
one on a commit. -/
theorem switchFormat_forms {f : Slot} {cause : SwitchCause} {s : State}
    (hs : s.FormatsLawful → (s.format f).standbyBank.header.isSome = true)
    (hc : s.FormatsLawful → cause = .commit → (s.format f).activeBank.header.isSome = true)
    (hn : s.NumbersApart → ∀ n, ((s.format f).switched cause).claims n = true →
      ∀ g, f ≠ g → (s.format g).claims n = false) : Forms s (switchFormat f cause s) := by
  have keeps := switchFormat_keeps f cause s
  intro h
  refine Forms.of_slot (switchFormat_format f cause s) (fun t => ?_) keeps.store (fun t r z hz => ?_) (fun h => ?_)
    hn h
  · obtain ⟨c, e⟩ := keeps.receivers t
    rw [e]
  · rw [switchFormat_row] at hz
    split at hz
    next hb =>
      obtain ⟨x, hx, hxf⟩ := boundRow_row hb
      rw [hx] at hz
      cases hz
      refine ⟨x, hx, adjustRow_key _ _, ?_⟩
      rw [if_pos hxf.symm]
      intro h
      have header := hs h
      simp only [(adjustRow_cycle _ _).1, false_iff, FormatSlot.switched_activeBank]
      intro hn
      rw [hn] at header
      cases header
    next hb =>
      refine ⟨z, hz, rfl, ?_⟩
      split
      next hf =>
        subst hf
        exact absurd (boundRow_of_row h.1 hz) hb
      · exact Iff.rfl
  · have store := h.2.1 f
    have lawful : (s.format f).standbyBank.Lawful := by
      obtain ⟨a, b⟩ | ⟨a, b⟩ := (s.format f).banks_cases
      · exact b ▸ store.2
      · exact a ▸ store.1
    exact FormatSlot.switched_lawful (h.2.2.1 f) lawful (hs h) (hc h)

/-- A switch of a format slot with an ARMED standby, or with a fallback on probation. -/
theorem switchFormat_forms_of_pending {f : Slot} {cause : SwitchCause} {s : State}
    (hp : (s.format f).isPending = true) (hc : cause = .commit → (s.format f).standby = .armed) :
    Forms s (switchFormat f cause s) := by
  refine switchFormat_forms (fun h => ?_) (fun h he => ?_) (fun ha n hn g hg => ?_)
  · refine (h.2.2.1 f).2.2.1 ?_
    simp only [FormatSlot.isPending, Bool.or_eq_true, Bool.and_eq_true, beq_iff_eq] at hp
    exact hp.imp_right And.left
  · exact (h.2.2.1 f).2.2.2.1 (.inl (hc he))
  · exact numbersApart_iff.mp ha f g hg n (FormatSlot.switched_claims hp hn)

/-- An ARMED standby is pending. -/
theorem FormatSlot.isPending_of_armed {x : FormatSlot} (h : x.standby = .armed) : x.isPending = true := by
  simp [isPending, h]

/-- A lawful format slot on probation is pending. -/
theorem FormatSlot.isPending_of_probation {x : FormatSlot} (hl : x.Lawful) (h : x.probation.isSome = true) :
    x.isPending = true := by
  obtain ⟨n, hn⟩ := Option.isSome_iff_exists.mp h
  simp [isPending, hn, (hl.2.2.2.2 n hn).2.2]

/-- The standby state and probation of a format slot replaced, as many numbers claimed as before or fewer. -/
theorem setSlotState_forms {f : Slot} {s : State} {st : Standby} {p : Option Nat}
    (hl : s.FormatsLawful → ({ s.format f with standby := st, probation := p } : FormatSlot).Lawful)
    (hc : s.NumbersApart → ∀ n, ({ s.format f with standby := st, probation := p } : FormatSlot).claims n = true →
      ∀ g, f ≠ g → (s.format g).claims n = false) :
    Forms s (s.setFormat f { s.format f with standby := st, probation := p }) := by
  refine Forms.of_slot (setFormat_format s f _) (fun _ => rfl)
    (setFormat_keeps f { s.format f with standby := st, probation := p } s rfl rfl rfl).store
    (fun t r z hz => ⟨z, hz, rfl, ?_⟩) hl hc
  split
  next hf =>
    intro h
    have formatted := h.2.2.2 t r z hz
    rw [← hf] at formatted
    exact formatted
  · exact Iff.rfl

/-- A format slot claims no more with its standby no longer pending. -/
theorem FormatSlot.claims_of_not_pending {x y : FormatSlot} (ha : y.activeBank = x.activeBank)
    (hp : y.isPending = false) {n : Nat} (h : y.claims n = true) : x.claims n = true := by
  rw [claims_iff, ha] at h
  rw [claims_iff]
  exact h.imp_right (fun k => by rw [hp] at k; cases k.1)

/-- A format slot claims no more with the same banks while it is pending. -/
theorem FormatSlot.claims_of_pending {x y : FormatSlot} (ha : y.activeBank = x.activeBank)
    (hs : y.standbyBank = x.standbyBank) (hp : x.isPending = true) {n : Nat} (h : y.claims n = true) :
    x.claims n = true := by
  rw [claims_iff, ha, hs] at h
  rw [claims_iff]
  exact h.imp_right (fun k => ⟨hp, k.2⟩)

/-- A probation in progress replaced by none or by a shorter one. -/
theorem setProbation_forms {f : Slot} {s : State} {n : Nat} {p : Option Nat} (hn : (s.format f).probation = some n)
    (hp : ∀ m ∈ p, 1 ≤ m ∧ m ≤ n) : Forms s (s.setFormat f { s.format f with probation := p }) := by
  have slot : s.FormatsLawful → (s.format f).Lawful := fun h => h.2.2.1 f
  intro h
  have pending := FormatSlot.isPending_of_probation (slot h) (by rw [hn]; rfl)
  refine setSlotState_forms (st := (s.format f).standby) (fun h => ?_) (fun ha k hk g hg => ?_) h
  · obtain ⟨l1, l2, l3, l4, l5⟩ := slot h
    have bound := l5 n hn
    refine ⟨l1, l2, l3, fun _ => l4 (.inr (by rw [hn]; rfl)), fun m hm => ?_⟩
    have := hp m hm
    exact ⟨this.1, by omega, bound.2.2⟩
  · exact numbersApart_iff.mp ha f g hg k
      (FormatSlot.claims_of_pending (x := s.format f) (y := { s.format f with probation := p }) rfl rfl pending hk)

theorem passProbation_forms {f : Slot} {s : State} (hp : (s.format f).probation.isSome = true) :
    Forms s (passProbation f s) := by
  obtain ⟨n, hn⟩ := Option.isSome_iff_exists.mp hp
  exact (setProbation_forms hn (by simp)).trans (postEvent_forms _ _ _ _ _)

theorem settleFormat_forms (cause : SwitchCause) (hc : cause ≠ .commit) (s : State) (f : Slot) :
    Forms s (settleFormat cause s f) := by
  unfold settleFormat
  split
  next ha => exact switchFormat_forms_of_pending (FormatSlot.isPending_of_armed ha) (fun h => absurd h hc)
  · split
    next hp => exact passProbation_forms hp
    · exact Forms.refl s

theorem switchAtBoundary_forms (f : Slot) (s : State) : Forms s (switchAtBoundary f s) := by
  unfold switchAtBoundary
  split
  next ha => exact switchFormat_forms_of_pending (FormatSlot.isPending_of_armed ha) (fun _ => ha)
  · split
    · exact Forms.refl s
    next n hn =>
      split
      · exact passProbation_forms (by rw [hn]; rfl)
      · exact setProbation_forms hn (by rintro m ⟨⟩; omega)

theorem switchAtLoss_forms (f : Slot) (cause : LossCause) (s : State) : Forms s (switchAtLoss f cause s) := by
  unfold switchAtLoss
  split
  next ha => exact switchFormat_forms_of_pending (FormatSlot.isPending_of_armed ha) nofun
  · split
    next hp =>
      intro h
      simp only [Bool.and_eq_true] at hp
      exact switchFormat_forms_of_pending (FormatSlot.isPending_of_probation (h.2.2.1 f) hp.1) nofun h
    · exact Forms.refl s

/-! ### The tracker -/

/-- A formatted row loses lock. -/
theorem loseLock_forms {t : Trunk} {r : RowIx} {s : State} (cause : LossCause)
    (hc : ∀ x, s.row t r = some x → x.cycle ≠ .unformatted) : Forms s (loseLock t r cause s) := by
  unfold loseLock
  split
  · exact Forms.refl s
  next x hx =>
    dsimp only
    have changed : Forms s (changeRow t r
        (fun y => { y with cycle := .search, miss := 0, check := 0, losses := bump y.losses }) s) :=
      changeRow_forms (fun y hy => ⟨rfl, by simp [hc y hy]⟩)
    exact changed.trans ((breakCounted_forms _ _ _ _).trans (switchAtLoss_forms _ _ _))

theorem endRow_forms (t : Trunk) (cause : LossCause) (s : State) (r : RowIx) : Forms s (endRow t cause s r) := by
  unfold endRow
  split
  · exact Forms.refl s
  next x hx =>
    have formatted : x.cycle ≠ .unformatted → ∀ y, s.row t r = some y → y.cycle ≠ .unformatted := by
      intro h y hy
      rw [hx] at hy
      cases hy
      exact h
    split
    next hc => exact loseLock_forms _ (formatted (by simp [hc]))
    next hc => exact changeRow_forms (fun y hy => ⟨rfl, by simp [formatted (by simp [hc]) y hy]⟩)
    · exact Forms.refl s
    · exact Forms.refl s

theorem Forms.foldl {α : Type} (step : State → α → State) (h : ∀ s a, Forms s (step s a)) (xs : List α) :
    ∀ s, Forms s (xs.foldl step s) := by
  induction xs with
  | nil => exact Forms.refl
  | cons x xs ih => exact fun s => (h s x).trans (ih _)

theorem endDelivery_forms (t : Trunk) (cause : LossCause) (s : State) : Forms s (endDelivery t cause s) :=
  Forms.foldl _ (endRow_forms t cause) rowList s

/-- The cycle state machine leaves a formatted row formatted. -/
theorem searchRow_cycle (h : Header) (words : List Word) (x : Row) (hc : x.cycle = .search) :
    (searchRow h words x).1.cycle ≠ .unformatted := by
  unfold searchRow
  split
  · simp [Row.lockAt]
  · split
    · simp [hc]
    · split <;> simp [Row.lockAt, Row.checkAt]

theorem checkRow_cycle (h : Header) (words : List Word) (x : Row) :
    (checkRow h words x).1.cycle ≠ .unformatted := by
  unfold checkRow
  split
  · simp
  · split
    · split <;> simp [Row.lockAt, Row.checkAt]
    · simp [Row.checkAt]

theorem cycleStep_forms {t : Trunk} {r : RowIx} {x : Row} {s : State} (hx : s.row t r = some x) (h : Header)
    (words : List Word) : Forms s (cycleStep t r h words x s).1 := by
  have like : ∀ {y : Row}, y.key = x.key → y.cycle ≠ .unformatted → x.cycle ≠ .unformatted →
      ∀ z, s.row t r = some z → y.Like z := by
    intro y hk hy hc z hz
    rw [hx] at hz
    cases hz
    exact ⟨hk, by simp [hy, hc]⟩
  unfold cycleStep
  split
  · exact Forms.refl s
  next hc =>
    exact changeRow_forms
      (like (searchRow_keeps h words x hc).1 (searchRow_cycle h words x hc) (by simp [hc]))
  next hc =>
    exact changeRow_forms (like (checkRow_keeps h words x hc).1 (checkRow_cycle h words x) (by simp [hc]))
  next hc =>
    obtain ⟨key, locked, -⟩ := lockedRow_keeps h words x hc
    dsimp only
    split
    · refine (setRow_forms hx (like key (by simp [locked]) (by simp [hc]) x hx)).trans (loseLock_forms _ ?_)
      intro y hy
      rw [setRow_row_same] at hy
      cases hy
      simp [locked]
    · exact setRow_forms hx (like (y := { lockedRow h words x with
        expected := ((lockedRow h words x).expected + 1) % h.length }) key (by simp [locked]) (by simp [hc]) x hx)

theorem cycleBoundary_forms (t : Trunk) (r : RowIx) (s : State) : Forms s (cycleBoundary t r s) := by
  unfold cycleBoundary
  split
  · exact Forms.refl s
  · have counted : Forms s (s.onRow t r (fun y => { y with cycleCount := y.cycleCount + 1 })) :=
      onRow_forms s (fun x => Row.Like.refl x)
    exact counted.trans ((breakCounted_forms _ _ _ _).trans (switchAtBoundary_forms _ _))

theorem rowFrame_forms {t : Trunk} {r : RowIx} {x : Row} {s : State} (hx : s.row t r = some x) (words : List Word)
    (mark : Bool) : Forms s (rowFrame t r x words mark s) := by
  unfold rowFrame
  split
  · exact Forms.refl s
  · split
    · exact Forms.refl s
    next h _ =>
      dsimp only
      have routed := (cycleStep_forms hx h words).trans
        (routeFrame_forms t r (cycleStep t r h words x s).2 words mark _)
      split
      · exact routed.trans (cycleBoundary_forms _ _ _)
      · exact routed

theorem processFrame_forms (t : Trunk) (words : List Word) (mark : Bool) (s : State) :
    Forms s (processFrame t words mark s) := by
  unfold processFrame
  dsimp only
  split
  · exact onCounters_forms _ _ _
  · split
    · exact onCounters_forms _ _ _
    next hx => exact rowFrame_forms hx _ _

theorem takeWaiting_forms (t : Trunk) (s : State) (w : Waiting) : Forms s (takeWaiting t s w) := by
  unfold takeWaiting
  split
  · exact processFrame_forms _ _ _ _
  · exact endDelivery_forms _ _ _

theorem drainWaiting_forms (t : Trunk) (s : State) : Forms s (drainWaiting t s) :=
  (setWaiting_forms t [] s).trans (Forms.foldl _ (takeWaiting_forms t) _ _)

theorem takeSignals_forms (t : Trunk) (ws : List Waiting) : ∀ s, Forms s (takeSignals t ws s) := by
  induction ws with
  | nil => exact Forms.refl
  | cons w rest ih =>
    intro s
    cases w with
    | frame words mark => exact Forms.refl s
    | deliveryEnded => exact (setWaiting_forms _ _ _).trans ((endDelivery_forms _ _ _).trans (ih _))

theorem trackerFrame_forms (t : Trunk) (words : List Word) (mark : Bool) (s : State) :
    Forms s (trackerFrame t words mark s) := by
  unfold trackerFrame
  split
  · split
    · exact setWaiting_forms _ _ _
    · exact Forms.refl s
  · exact (drainWaiting_forms _ _).trans (processFrame_forms _ _ _ _)

theorem trackerEnded_forms (t : Trunk) (s : State) : Forms s (trackerEnded t s) := by
  unfold trackerEnded
  split
  · exact setWaiting_forms _ _ _
  · exact (drainWaiting_forms _ _).trans (endDelivery_forms _ _ _)

theorem waitingFrame_forms (t : Trunk) (s : State) : Forms s (waitingFrame t s) := by
  unfold waitingFrame
  split
  · exact Forms.refl s
  · split
    · exact Forms.refl s
    · exact (setWaiting_forms _ _ _).trans ((endDelivery_forms _ _ _).trans (takeSignals_forms _ _ _))
    · exact (setWaiting_forms _ _ _).trans ((processFrame_forms _ _ _ _).trans (takeSignals_forms _ _ _))

/-! ### The commands that trunk bits bring -/

/-- A receiver replaced by one with the same tag position. -/
theorem setReceiver_forms {s : State} {t : Trunk} {y : Receiver}
    (hy : y.profile.tagPos = (s.receiver t).profile.tagPos) : Forms s (s.setReceiver t y) := by
  refine Forms.of_same rfl rfl (fun k => ?_)
  rw [setReceiver_receiver]
  split
  next h => subst h; exact hy
  · rfl

theorem changeReceiver_forms {s : State} {t : Trunk} {y : Receiver}
    (hy : y.profile.tagPos = (s.receiver t).profile.tagPos) : Forms s (changeReceiver t y s) := by
  unfold changeReceiver
  split
  · exact setReceiver_forms hy
  · exact (setReceiver_forms hy).trans (postEvent_forms _ _ _ _ _)

theorem candidateStep_profile (x : Receiver) (e : Nat) : (x.candidateStep e).profile = x.profile := by
  unfold Receiver.candidateStep
  split <;> rfl

theorem compared_profile (x : Receiver) (e : Nat) (bits : Window) : (x.compared e bits).profile = x.profile := by
  unfold Receiver.compared
  rw [Receiver.boundaryStep_profile]
  rfl

theorem orderEnded_profile (x : Receiver) (last : Nat) : (x.orderEnded last).profile = x.profile := by
  unfold Receiver.orderEnded
  split <;> rfl

theorem syncCandidate_forms (t : Trunk) (start : Nat) (bits : Window) (s : State) :
    Forms s (syncCandidate t start bits s) := by
  unfold syncCandidate
  dsimp only
  split
  · split
    · exact changeReceiver_forms (by rw [candidateStep_profile]; rfl)
    · exact setReceiver_forms rfl
  · exact Forms.refl s

theorem boundaryComparison_forms (t : Trunk) (bits : Window) (s : State) :
    Forms s (boundaryComparison t bits s) := by
  unfold boundaryComparison
  dsimp only
  split
  · exact Forms.refl s
  next e _ =>
    split
    · have changed : Forms s (changeReceiver t ((s.receiver t).compared e bits) s) :=
        changeReceiver_forms (by rw [compared_profile])
      split
      · exact changed.trans (trackerEnded_forms _ _)
      · exact changed
    · exact Forms.refl s

theorem markerMatch_forms (t : Trunk) (start : Nat) (bits : BitVec 32) (s : State) :
    Forms s (markerMatch t start bits s) := by
  unfold markerMatch
  dsimp only
  split
  · exact setReceiver_forms rfl
  · exact Forms.refl s

theorem minorFrame_forms (t : Trunk) (words : List Word) (s : State) : Forms s (minorFrame t words s) := by
  unfold minorFrame
  dsimp only
  split
  · exact Forms.refl s
  · split
    · refine Forms.trans ?_ (trackerFrame_forms _ _ _ _)
      exact setReceiver_forms rfl
    · exact Forms.refl s

/-! ### What no format slot and no row takes part in -/

/-- Links, event unit, order unit, free values, contexts, runtimes and free counts. -/
theorem Forms.aside {s u : State} (hr : u.receivers = s.receivers) (ht : u.trackers = s.trackers)
    (hf : u.formats = s.formats) : Forms s u := by
  refine Forms.of_same hf ht (fun t => ?_)
  unfold State.receiver
  rw [hr]

theorem placeReplies_forms (o : QueuedOrder) (final : Record) (later rs : List Record) (s : State) :
    Forms s (placeReplies o final later rs s) := by
  obtain ⟨ls, e, q, n, m, b, h⟩ := placeReplies_frame o final later rs s
  rw [h]
  exact Forms.aside rfl rfl rfl

/-- Nothing that a reply changes is a format slot or a row. -/
theorem forms_composes : Composes Forms where
  refl := Forms.refl
  trans := Forms.trans
  draw _ := Forms.aside rfl rfl rfl
  orders _ _ := Forms.aside rfl rfl rfl
  replies := placeReplies_forms

theorem giveNotice_forms (l : Link) (n : RoomNotice) (s : State) : Forms s (giveNotice l n s) := by
  obtain ⟨k, e⟩ := giveNotice_frame l n s
  rw [e]
  exact Forms.aside rfl rfl rfl

theorem setLink_forms (l : Link) (x : LinkTx) (s : State) : Forms s (s.setLink l x) := Forms.aside rfl rfl rfl

theorem setEvents_forms (ev : EventUnit) (s : State) : Forms s (s.setEvents ev) := Forms.aside rfl rfl rfl

theorem linkUp_forms (l : Link) (s : State) : Forms s (linkUp l s) := by
  unfold linkUp
  split
  · exact setLink_forms _ _ _
  · exact Forms.refl s

theorem linkDown_forms (l : Link) (s : State) : Forms s (linkDown l s) := by
  unfold linkDown
  split
  · exact Forms.refl s
  · exact (setLink_forms _ _ _).trans (giveNotice_forms _ _ _)

theorem expireTimer_forms (l : Link) (s : State) : Forms s (expireTimer l s) := by
  obtain ⟨ls, n, k, e⟩ := expireTimer_frame l s
  rw [e]
  exact Forms.aside rfl rfl rfl

theorem recordSent_forms (l : Link) (s : State) : Forms s (recordSent l s) := by
  unfold recordSent
  split
  · exact Forms.refl s
  · exact setLink_forms _ _ _
  · exact (setLink_forms _ _ _).trans (giveNotice_forms _ _ _)

theorem passUnit_forms (s : State) : Forms s (passUnit s) := by
  obtain ⟨ls, ev, n, d, e⟩ := passUnit_frame s
  rw [e]
  exact Forms.aside rfl rfl rfl

theorem placeEvent_forms (l : Link) (r : Record) (s : State) : Forms s (placeEvent l r s) := by
  obtain ⟨ls, n, e⟩ := placeEvent_frame l r s
  rw [e]
  exact Forms.aside rfl rfl rfl

theorem postOrdersShed_forms (t : Trunk) (h : Word) (s : State) : Forms s (postOrdersShed t h s) := by
  unfold postOrdersShed
  split
  · exact (setEvents_forms _ _).trans (placeEvent_forms _ _ _)
  · exact Forms.refl _

theorem postOrderRefused_forms (t : Trunk) (h : Word) (s : State) : Forms s (postOrderRefused t h s) := by
  unfold postOrderRefused
  split
  · exact (setEvents_forms _ _).trans (placeEvent_forms _ _ _)
  · exact Forms.refl _

theorem handOrder_forms (o : QueuedOrder) (s : State) : Forms s (handOrder o s) := by
  unfold handOrder
  split
  · have armed : Forms s (armRefusal o.trunk s) := setEvents_forms _ s
    refine armed.trans ?_
    dsimp only
    split
    · exact Forms.refl _
    · unfold roomTest
      split
      · obtain ⟨e, q, b, h⟩ := takeNext_frame
          ((armRefusal o.trunk s).setOrders
            { (armRefusal o.trunk s).orders with queue := (armRefusal o.trunk s).orders.queue ++ [o] })
        rw [h]
        exact Forms.aside rfl rfl rfl
      · exact (onCounters_forms _ _ _).trans (postOrdersShed_forms _ _ _)
  · exact (onCounters_forms _ _ _).trans (postOrderRefused_forms _ _ _)

theorem orderFrame_forms (t : Trunk) (w : OrderFrame) (s : State) : Forms s (orderFrame t w s) := by
  unfold orderFrame
  dsimp only
  split
  · exact Forms.refl s
  next m _ =>
    split
    · have ended : Forms s (s.setReceiver t ((s.receiver t).orderEnded (m + 16 * (w.body.length + 5)))) :=
        setReceiver_forms (by rw [orderEnded_profile])
      split
      · exact ended.trans ((onCounters_forms _ _ _).trans (handOrder_forms _ _))
      · exact ended.trans (onCounters_forms _ _ _)
    · exact Forms.refl s

theorem orderFrames_forms (frames : Vector (Option OrderFrame) 4) (s : State) : Forms s (orderFrames frames s) := by
  refine Forms.foldl _ (fun u t => ?_) trunkList s
  split
  · exact Forms.refl u
  · exact orderFrame_forms _ _ _

/-! ### SET_TRUNK, BIND_SOURCE, UNBIND_SOURCE -/

/-- A receiver with a profile that leaves row 0 alone occupied when it is untagged, after what waited. -/
theorem reinitReceiver_forms {t : Trunk} {p : Profile} {s : State}
    (hp : s.FormatsLawful → p.tagPos = 0 → ∀ r, r ≠ 0 → s.row t r = none) {y : Receiver} (hy : y.profile = p) :
    Forms s (changeReceiver t y (drainWaiting t s)) := by
  have drained := drainWaiting_forms t s
  have keys := (drainWaiting_keeps t s).keys
  intro h
  generalize drainWaiting t s = d at drained keys ⊢
  obtain ⟨⟨⟨formats, untagged, tags⟩, store, slots, formatted⟩, apart⟩ := drained h
  have replaced : (d.setReceiver t y).FormatsLawful := by
    refine ⟨⟨formats, fun k r h0 hr => ?_, tags⟩, store, slots, formatted⟩
    rw [setReceiver_receiver] at h0
    split at h0
    next hk =>
      subst hk
      have vacant := keys t r
      rw [hp h (hy ▸ h0) r hr, Option.map_none, Option.map_eq_none_iff] at vacant
      exact vacant
    · exact untagged k r h0 hr
  unfold changeReceiver
  split
  · exact ⟨replaced, apart⟩
  · obtain ⟨formats', apart'⟩ := postEvent_forms .trunkSync (numWord t.val) 0
      [statesWord (d.receiver t).sync.number y.sync.number] (d.setReceiver t y) replaced
    exact ⟨formats', fun ha => apart' (apart ha)⟩

/-- A trunk reinitialized with a profile that leaves row 0 alone occupied when it is untagged. -/
theorem reinitTrunk_forms {t : Trunk} {p : Profile} {s : State}
    (hp : s.FormatsLawful → p.tagPos = 0 → ∀ r, r ≠ 0 → s.row t r = none) (arrived : Nat) :
    Forms s (reinitTrunk t p arrived s) := by
  unfold reinitTrunk
  exact (reinitReceiver_forms hp rfl).trans ((endDelivery_forms t .order _).trans (onCounters_forms t _ _))

/-- An untagged profile finds rows 1 to 3 vacant (R160). -/
theorem untaggedFailure_eq_none {t : Trunk} {p : Profile} {s : State} (h : untaggedFailure t p s = none)
    (h0 : p.tagPos = 0) (r : RowIx) (hr : r ≠ 0) : s.row t r = none := by
  rw [untaggedFailure, if_pos h0, List.find?_eq_none] at h
  have mem : r ∈ ([1, 2, 3] : List RowIx) := by revert hr; revert r; decide
  simpa using h r mem

theorem setTrunkFinish_forms (arrived : Nat) (o : QueuedOrder) (s : State) :
    Forms s (setTrunkFinish arrived o s).1 := by
  obtain e | ⟨t, ht, e⟩ := setTrunkFinish_cases arrived o s <;> rw [e]
  · exact Forms.refl s
  · exact reinitTrunk_forms (fun _ => untaggedFailure_eq_none (setTrunkTarget_ok.mp ht).2.2) arrived

/-- A vacant row bound to an unbound format slot, with a tag value of its own, row 0 on an untagged trunk. -/
theorem bindRow_forms {s : State} {t : Trunk} {r : RowIx} {f : Slot} {tag : Option Nat}
    (hr : (s.receiver t).profile.tagPos = 0 → r = 0) (hb : s.boundRow f = none)
    (ht : ∀ v, tag = some v → ∀ q, q ≠ r → hasTag v (s.row t q) = false) :
    Forms s (s.setRow t r (some (boundRowOf tag f (s.activeBank f).committed))) := by
  rintro ⟨⟨formats, untagged, tags⟩, store, slots, formatted⟩
  have unbound : ∀ t' r' x, s.row t' r' = some x → x.format ≠ f := by
    intro t' r' x hx hf
    unfold State.boundRow at hb
    rw [List.find?_eq_none] at hb
    have := hb (t', r') (mem_allRows t' r')
    simp [hx, boundTo, hf] at this
  have rows : ∀ t' r' z, (s.setRow t r (some (boundRowOf tag f (s.activeBank f).committed))).row t' r' = some z →
      (t = t' ∧ r = r' ∧ z = boundRowOf tag f (s.activeBank f).committed) ∨
      (¬ (t = t' ∧ r = r') ∧ s.row t' r' = some z) := by
    intro t' r' z hz
    rw [setRow_row] at hz
    split at hz
    next h => cases hz; exact .inl ⟨h.1, h.2, rfl⟩
    next h => exact .inr ⟨h, hz⟩
  refine ⟨⟨⟨?_, ?_, ?_⟩, store, slots, ?_⟩, id⟩
  · intro t1 t2 r1 r2 x hx y hy hxy
    obtain ⟨rfl, rfl, rfl⟩ | ⟨-, hx⟩ := rows _ _ _ hx <;> obtain ⟨rfl, rfl, rfl⟩ | ⟨-, hy⟩ := rows _ _ _ hy
    · exact ⟨rfl, rfl⟩
    · exact absurd hxy.symm (unbound _ _ _ hy)
    · exact absurd hxy (unbound _ _ _ hx)
    · exact formats _ _ _ _ x hx y hy hxy
  · intro t' r' h0 hr'
    rw [setRow_row]
    split
    next h =>
      obtain ⟨rfl, rfl⟩ := h
      exact absurd (hr h0) hr'
    · exact untagged t' r' h0 hr'
  · intro t' r1 r2 x hx y hy v hv hv'
    obtain ⟨rfl, rfl, rfl⟩ | ⟨n1, hx⟩ := rows _ _ _ hx <;> obtain ⟨e, rfl, rfl⟩ | ⟨n2, hy⟩ := rows _ _ _ hy
    · rfl
    · have := ht v hv r2 (fun he => n2 ⟨rfl, he.symm⟩)
      simp [hy, hasTag, hv'] at this
    · subst e
      have := ht v hv' r1 (fun he => n1 ⟨rfl, he.symm⟩)
      simp [hx, hasTag, show x.tag = some v from hv] at this
    · exact tags t' r1 r2 x hx y hy v hv hv'
  · intro t' r' z hz
    obtain ⟨-, -, rfl⟩ | ⟨-, hz⟩ := rows _ _ _ hz
    · show _ ↔ (s.activeBank f).header = none
      cases hc : (s.activeBank f).header <;> simp [boundRowOf, Bank.committed, hc]
    · exact formatted t' r' z hz

theorem bindSourceOrder_forms (o : QueuedOrder) (s : State) : Forms s (bindSourceOrder o s).1 := by
  obtain e | ⟨t, r, f, e⟩ := bindSourceOrder_cases o s <;> rw [e]
  · exact Forms.refl s
  obtain e | ⟨hr, -, hb, ht, e⟩ := bindTo_cases t r f (o.arg 3) s <;> rw [e]
  · exact Forms.refl s
  refine bindRow_forms hr hb (fun v hv q hq => ?_)
  split at hv
  · cases hv
  next h0 =>
    cases hv
    have none := ht h0
    unfold tagHolder at none
    rw [List.find?_eq_none] at none
    simpa [hq] using none q (mem_rowList q)

theorem unbindFinish_forms (o : QueuedOrder) (s : State) : Forms s (unbindFinish o s).1 := by
  obtain e | ⟨t, r, x, -, e⟩ := unbindFinish_cases o s <;> rw [e]
  · exact Forms.refl s
  · exact (setContexts_forms _ _ s).trans (vacate_forms t r _)

/-! ### Standby banks -/

/-- A format slot that is neither ARMED nor on probation given another standby, EMPTY without content or STAGING. -/
theorem withStandby_forms {s : State} {f : Slot} {b : Bank} {st : Standby} {n m : Nat}
    (hp : (s.format f).isPending = false) (hst : st = .staging ∨ st = .empty ∧ b = Bank.empty)
    (hu : Upholds s ((s.setFormat f ((s.format f).withStandby b st)).setFree n m)) :
    Forms s ((s.setFormat f ((s.format f).withStandby b st)).setFree n m) := by
  have active := FormatSlot.withStandby_activeBank (s.format f) b st
  have standby := FormatSlot.withStandby_standbyBank (s.format f) b st
  have state : ((s.format f).withStandby b st).standby = st := rfl
  have prob : ((s.format f).withStandby b st).probation = (s.format f).probation := by
    cases h : (s.format f).active <;> simp [FormatSlot.withStandby, FormatSlot.setBank, BankId.other, h]
  have idle : ((s.format f).withStandby b st).isPending = false := by
    obtain rfl | ⟨rfl, -⟩ := hst <;> simp [FormatSlot.isPending, state]
  refine Forms.of_slot (fun g => setFormat_format s f _ g) (fun _ => rfl) hu.store
    (fun t r z hz => ⟨z, hz, rfl, ?_⟩) (fun h => ?_) (fun ha k hk g hg => ?_)
  · split
    next hf =>
      intro h
      have formatted := h.2.2.2 t r z hz
      rw [← hf] at formatted
      rw [active]
      exact formatted
    · exact Iff.rfl
  · have none : (s.format f).probation = none := by
      cases hn : (s.format f).probation with
      | none => rfl
      | some n =>
        rw [FormatSlot.isPending_of_probation (h.2.2.1 f) (by rw [hn]; rfl)] at hp
        cases hp
    obtain ⟨empty, -, -, -, -⟩ := h.2.2.1 f
    unfold FormatSlot.Lawful
    rw [active, standby, state, prob, none]
    obtain rfl | ⟨rfl, rfl⟩ := hst
    · exact ⟨empty, nofun, by simp, by simp, nofun⟩
    · exact ⟨empty, fun _ => rfl, by simp, by simp, nofun⟩
  · exact numbersApart_iff.mp ha f g hg k (FormatSlot.claims_of_not_pending active idle hk)

theorem emptyStandby_forms {f : Slot} {st : Standby} {s : State} (hp : (s.format f).isPending = false)
    (hst : st = .staging ∨ st = .empty) : Forms s (emptyStandby f st s) :=
  withStandby_forms hp (hst.imp_right (fun h => ⟨h, rfl⟩)) (emptyStandby_upholds f st s)

/-- The standby state alone replaced by STAGING, where the standby is not pending or was ARMED. -/
theorem setStaging_forms {f : Slot} {s : State} (h : s.FormatsLawful → (s.format f).probation = none) :
    Forms s (s.setFormat f { s.format f with standby := .staging }) := by
  refine setSlotState_forms (p := (s.format f).probation) (fun hl => ?_) (fun ha n hn g hg => ?_)
  · obtain ⟨empty, -, -, -, -⟩ := hl.2.2.1 f
    have none := h hl
    refine ⟨empty, nofun, by simp, ?_, ?_⟩
    · simp [none]
    · simp [none]
  · exact numbersApart_iff.mp ha f g hg n
      (FormatSlot.claims_of_not_pending (x := s.format f) (y := { s.format f with standby := .staging }) rfl
        (by simp [FormatSlot.isPending]) hn)

/-- A lawful format slot that is not pending is not on probation. -/
theorem FormatSlot.probation_none {x : FormatSlot} (hl : x.Lawful) (hp : x.isPending = false) :
    x.probation = none := by
  cases hn : x.probation with
  | none => rfl
  | some n =>
    rw [isPending_of_probation hl (by rw [hn]; rfl)] at hp
    cases hp

/-- A standby that is opened is STAGING (R52). -/
theorem openStaging_standby {f : Slot} {s : State} (hp : (s.format f).isPending = false) :
    ((openStaging f s).format f).standby = .staging := by
  unfold openStaging
  split
  · simp only [emptyStandby, setFree_format, setFormat_format_same]
    rfl
  · simp
  next h => exact h
  next h => simp [FormatSlot.isPending, h] at hp

theorem openStaging_forms {f : Slot} {s : State} (hp : (s.format f).isPending = false) :
    Forms s (openStaging f s) := by
  unfold openStaging
  split
  · exact emptyStandby_forms hp (.inl rfl)
  · exact setStaging_forms (fun h => FormatSlot.probation_none (h.2.2.1 f) hp)
  · exact Forms.refl s
  · exact Forms.refl s

/-- A staging order, given what its content does to a STAGING standby. -/
theorem stagingOrder_forms {content : Slot → State → State × Status × Word}
    (h : ∀ f s, (s.format f).standby = .staging → Forms s (content f s).1) (o : QueuedOrder) (s : State) :
    Forms s (stagingOrder content o s).1 := by
  unfold stagingOrder
  split
  · exact Forms.refl s
  next f _ =>
    split
    · exact Forms.refl s
    next hp =>
      have idle : (s.format f).isPending = false := by simpa using hp
      exact (openStaging_forms idle).trans (h _ _ (openStaging_standby idle))

/-- A STAGING standby is not pending. -/
theorem FormatSlot.not_pending_of_staging {x : FormatSlot} (h : x.standby = .staging) : x.isPending = false := by
  simp [isPending, h]

/-- Another content in a STAGING standby. -/
theorem setStaged_forms {s : State} {f : Slot} {b : Bank} {n m : Nat} (hs : (s.format f).standby = .staging)
    (hu : Upholds s ((s.setStandbyBank f b).setFree n m)) : Forms s ((s.setStandbyBank f b).setFree n m) := by
  unfold State.setStandbyBank at hu ⊢
  exact withStandby_forms (FormatSlot.not_pending_of_staging hs) (.inl hs) hu

theorem placeHeader_forms (h : Header) (f : Slot) (s : State) (hs : (s.format f).standby = .staging) :
    Forms s (placeHeader h f s).1 := by
  have upholds := placeHeader_upholds h f s
  unfold placeHeader at upholds ⊢
  split
  · exact Forms.refl s
  next hh =>
    rw [hh] at upholds
    exact setStaged_forms (n := s.freeSlots) (m := s.freeParams) hs upholds

theorem placeSlots_forms {items : List (Option SlotEntry)} (hi : ∀ e, some e ∈ items → e.InRange) (f : Slot)
    (s : State) (hs : (s.format f).standby = .staging) : Forms s (placeSlots items f s).1 := by
  have upholds := placeSlots_upholds hi f s
  unfold placeSlots at upholds ⊢
  dsimp only at upholds ⊢
  split
  · exact Forms.refl s
  next slots ha =>
    rw [ha] at upholds
    dsimp only at upholds
    split
    next room =>
      rw [if_pos room] at upholds
      exact setStaged_forms hs upholds
    · exact Forms.refl s

theorem placeParams_forms {items : List (Option ParamDef)} (hi : ∀ d, some d ∈ items → d.InRange) (f : Slot)
    (s : State) (hs : (s.format f).standby = .staging) : Forms s (placeParams items f s).1 := by
  have upholds := placeParams_upholds hi f s
  unfold placeParams at upholds ⊢
  dsimp only at upholds ⊢
  split
  · exact Forms.refl s
  next params ha =>
    rw [ha] at upholds
    dsimp only at upholds
    split
    next room =>
      rw [if_pos room] at upholds
      exact setStaged_forms hs upholds
    · exact Forms.refl s

theorem discardStageOrder_forms (o : QueuedOrder) (s : State) : Forms s (discardStageOrder o s).1 := by
  unfold discardStageOrder
  split
  · exact Forms.refl s
  · unfold discardStage
    split
    · exact Forms.refl s
    next hp =>
      dsimp only
      split
      · exact Forms.refl s
      · exact emptyStandby_forms (by simpa using hp) (.inr rfl)

/-! ### COMMIT and CANCEL_COMMIT -/

/-- A bank that passes the checks of COMMIT has a header (R64). -/
theorem header_of_commitFailure {f : Slot} {b : Bank} {s : State} (h : commitFailure f b s = none) :
    b.header.isSome = true := by
  cases hb : b.header with
  | some x => rfl
  | none => simp [commitFailure, incomplete, hb] at h

/-- A bank that passes the checks of COMMIT defines no number that another format slot claims (R66). -/
theorem unclaimed_of_commitFailure {f : Slot} {b : Bank} {s : State} (h : commitFailure f b s = none) {n : Nat}
    (hn : n ∈ b.params.map (fun d => d.number)) (g : Slot) (hg : f ≠ g) : (s.format g).claims n = false := by
  unfold commitFailure at h
  split at h
  · cases h
  split at h
  · cases h
  unfold clashing at h
  split at h
  next hc =>
    obtain ⟨d, hd, rfl⟩ := List.mem_map.mp hn
    have none := firstFailing_eq_none_iff.mp hc d hd
    rw [Option.isNone_iff_eq_none, claimant, List.find?_eq_none] at none
    simpa [hg.symm] using none g (mem_slotList g)
  · cases h

/-- A format slot bound to a locked row has a committed active bank. -/
theorem committed_of_boundLocked {f : Slot} {s : State} (h : s.FormatsLawful) (hl : boundLocked f s = true) :
    (s.format f).activeBank.header.isSome = true := by
  obtain ⟨t, r, x, hb, hx, hc⟩ := boundLocked_iff.mp hl
  obtain ⟨y, hy, hf⟩ := boundRow_row hb
  rw [hx] at hy
  cases hy
  have formatted := h.2.2.2 t r x hx
  rw [hf, hc] at formatted
  cases hh : (s.format f).activeBank.header with
  | some d => rfl
  | none => exact absurd (formatted.mpr hh) (by simp)

theorem commitOrder_forms (o : QueuedOrder) (s : State) : Forms s (commitOrder o s).1 := by
  obtain e | ⟨f, hs, hc, ⟨hl, e⟩ | ⟨-, e⟩⟩ := commitOrder_cases o s <;> rw [e]
  · exact Forms.refl s
  · refine setSlotState_forms (p := (s.format f).probation) (fun h => ?_) (fun ha n hn g hg => ?_)
    · obtain ⟨empty, -, -, -, -⟩ := h.2.2.1 f
      have none := FormatSlot.probation_none (h.2.2.1 f) (FormatSlot.not_pending_of_staging hs)
      exact ⟨empty, nofun, fun _ => header_of_commitFailure hc, fun _ => committed_of_boundLocked h hl,
        by simp [none]⟩
    · rw [FormatSlot.claims_iff] at hn
      obtain hn | ⟨-, hn⟩ := hn
      · exact numbersApart_iff.mp ha f g hg n (FormatSlot.claims_iff.mpr (.inl hn))
      · exact unclaimed_of_commitFailure hc hn g hg
  · refine switchFormat_forms (fun _ => header_of_commitFailure hc) nofun (fun ha n hn g hg => ?_)
    have settled : ((s.format f).switched .immediate).isPending = false := by
      simp [FormatSlot.isPending, FormatSlot.switched, standbyAfter, probationAfter]
      split <;> simp
    rw [FormatSlot.claims_iff, FormatSlot.switched_activeBank, settled] at hn
    obtain hn | ⟨hn, -⟩ := hn
    · exact unclaimed_of_commitFailure hc hn g hg
    · cases hn

theorem cancelCommitOrder_forms (o : QueuedOrder) (s : State) : Forms s (cancelCommitOrder o s).1 := by
  obtain e | ⟨f, ha, e⟩ := cancelCommitOrder_cases o s <;> rw [e]
  · exact Forms.refl s
  · refine setStaging_forms (fun h => ?_)
    cases hn : (s.format f).probation with
    | none => rfl
    | some n =>
      have := ((h.2.2.1 f).2.2.2.2 n hn).2.2
      rw [ha] at this
      cases this

/-! ### TUNE_PARAM, CLEAR_COUNTERS, RESTART -/

/-- A definition replaced by one of the same number in the active bank. -/
theorem applyTune_forms {f : Slot} {old new : ParamDef} {s : State}
    (hnew : (s.activeBank f).Lawful → new.InRange) : Forms s (applyTune f old new s) := by
  have active := FormatSlot.setBank_activeBank (s.format f) ((s.format f).activeBank.replaceParam new)
  have standby := FormatSlot.setBank_standbyBank (s.format f) ((s.format f).activeBank.replaceParam new)
  have state : ∀ b, ((s.format f).setBank (s.format f).active b).standby = (s.format f).standby ∧
      ((s.format f).setBank (s.format f).active b).probation = (s.format f).probation := by
    intro b
    cases h : (s.format f).active <;> exact ⟨rfl, rfl⟩
  have header : ((s.format f).activeBank.replaceParam new).header = (s.format f).activeBank.header := rfl
  have edited : Forms s (s.setFormat f ((s.format f).setBank (s.format f).active
      ((s.format f).activeBank.replaceParam new))) := by
    refine Forms.of_slot (fun g => setFormat_format s f _ g) (fun _ => rfl) ?_ (fun t r z hz => ⟨z, hz, rfl, ?_⟩)
      (fun h => ?_) (fun ha k hk g hg => ?_)
    · exact (setActive_upholds (b := (s.format f).activeBank.replaceParam new)
        (fun h => Bank.replaceParam_lawful (hnew h) h) rfl (Bank.replaceParam_numbers _ _)).store
    · split
      next hf =>
        intro h
        have formatted := h.2.2.2 t r z hz
        rw [← hf] at formatted
        rw [active]
        exact formatted
      · exact Iff.rfl
    · obtain ⟨empty, l2, l3, l4, l5⟩ := h.2.2.1 f
      unfold FormatSlot.Lawful
      rw [active, standby, (state _).1, (state _).2, header]
      refine ⟨fun hn => ?_, l2, l3, l4, l5⟩
      rw [empty hn]
      rfl
    · refine numbersApart_iff.mp ha f g hg k ?_
      rw [FormatSlot.claims_iff] at hk ⊢
      rw [active, standby, Bank.replaceParam_numbers, FormatSlot.isPending, (state _).1, (state _).2] at hk
      exact hk
  unfold applyTune
  dsimp only
  split
  · exact edited
  · exact edited.trans (Forms.aside rfl rfl rfl)

/-- A tuned definition is in range (R46, R80). -/
theorem ParamDef.tuned_inRange {b : Bank} {n : Nat} {d : ParamDef} {w1 w2 w3 w4 w5 : Word} {x : TunedFields}
    (hd : b.definition? n = some d) (hx : tunedFieldsOf d.signed w1 w2 w3 w4 w5 = .ok x) (h : b.Lawful) :
    (d.tuned x).InRange := by
  obtain ⟨-, -, -, -, inRange, -⟩ := h
  obtain ⟨number, low, high, -, -⟩ := inRange d (List.mem_of_find?_eq_some hd)
  obtain ⟨emission, limits⟩ := tunedFieldsOf_inRange hx
  exact ⟨number, low, high, emission, limits⟩

theorem tuneParamOrder_forms (o : QueuedOrder) (s : State) : Forms s (tuneParamOrder o s).1 := by
  obtain e | ⟨f, d, x, hd, hx, e⟩ := tuneParamOrder_cases o s <;> rw [e]
  · exact Forms.refl s
  · exact applyTune_forms (ParamDef.tuned_inRange hd hx)

/-- The rows after the counters of a trunk are cleared. -/
theorem clearScope_trunk_row (s : State) (t t' : Trunk) (r : RowIx) :
    (clearScope s (.trunk t)).row t' r = if t = t' then (s.row t' r).map Row.cleared else s.row t' r := by
  simp only [State.row, clearScope, setTracker_tracker]
  split
  next h => subst h; simp only [Tracker.cleared, pick_map]
  · rfl

theorem clearCountersOrder_forms (o : QueuedOrder) (s : State) : Forms s (clearCountersOrder o s).1 := by
  unfold clearCountersOrder
  split
  · exact Forms.refl s
  next sc _ =>
    cases sc with
    | part => exact setEvents_forms _ s
    | link l => exact setLink_forms _ _ s
    | format f => exact Forms.aside rfl rfl rfl
    | trunk t =>
      have zeroed : Forms s (s.onCounters t (fun _ => TrunkCounters.zero)) := onCounters_forms t _ s
      refine zeroed.trans (Forms.of_rows (fun _ => rfl) (fun _ => rfl) (fun t' r y hy => ?_))
      rw [clearScope_trunk_row] at hy
      split at hy
      · obtain ⟨x, hx, rfl⟩ := Option.map_eq_some_iff.mp hy
        exact ⟨x, hx, Row.Like.refl x⟩
      · exact ⟨y, hy, Row.Like.refl y⟩

theorem setOrderAcceptOrder_forms (o : QueuedOrder) (s : State) : Forms s (setOrderAcceptOrder o s).1 := by
  unfold setOrderAcceptOrder
  dsimp only
  split
  · exact Forms.refl s
  · split
    · exact Forms.refl s
    · exact Forms.aside rfl rfl rfl

theorem setEventsOrder_forms (o : QueuedOrder) (s : State) : Forms s (setEventsOrder o s).1 := by
  unfold setEventsOrder
  split
  · exact Forms.refl s
  · exact Forms.refl s
  · exact Forms.aside rfl rfl rfl

/-- The rows after RESTART has set them (R38). -/
theorem restartRows_row (arrived : Vector Nat 4) (s : State) (t : Trunk) (r : RowIx) :
    (restartStep arrived s .rows).row t r =
      (s.row t r).map (fun y => y.restarted (s.activeBank y.format).committed) := by
  simp only [State.row, State.tracker, restartStep, pick_map, Tracker.restarted]

theorem restartStep_forms (arrived : Vector Nat 4) (s : State) (x : RestartStep) :
    Forms s (restartStep arrived s x) := by
  cases x with
  | switchControl => exact Forms.foldl _ (settleFormat_forms .order nofun) _ s
  | trunk t => exact reinitTrunk_forms (fun h h0 r hr => h.1.2.1 t r h0 hr) _
  | evaluation =>
    have fresh : ∀ u f, Forms u (u.setRuntimes f (freshRuntimes (u.activeBank f))) :=
      fun _ _ => Forms.aside rfl rfl rfl
    exact Forms.foldl _ fresh slotList s
  | link l =>
    unfold restartStep
    dsimp only
    split
    · exact Forms.aside rfl rfl rfl
    · exact Forms.aside rfl rfl rfl
  | rows =>
    intro h
    obtain ⟨bindings, store, slots, formatted⟩ := h
    refine ⟨⟨bindingsLawful_of_bound (s := s) (fun t r y hy => ?_) (fun _ => rfl) bindings, store,
      slots, ?_⟩, id⟩
    · rw [restartRows_row, Option.map_eq_some_iff] at hy
      obtain ⟨x, hx, rfl⟩ := hy
      exact ⟨x, hx, rfl⟩
    · intro t r y hy
      rw [restartRows_row, Option.mem_def, Option.map_eq_some_iff] at hy
      obtain ⟨x, -, rfl⟩ := hy
      show _ ↔ (s.activeBank x.format).header = none
      cases hc : (s.activeBank x.format).header <;> simp [Row.restarted, Bank.committed, hc]
  | reply => exact Forms.refl s

/-! ### The step -/

/-- After power-on reset the format slots are lawful and the numbers apart. -/
theorem released_formats (ready0 ready1 : Bool) (s : State) :
    (releasedState ready0 ready1 s).FormatsLawful ∧ (releasedState ready0 ready1 s).NumbersApart := by
  have row := released_row ready0 ready1 s
  have format := released_format ready0 ready1 s
  refine ⟨⟨⟨?_, ?_, ?_⟩, (released_laws ready0 ready1 s).2.2.1, fun f => ?_, ?_⟩, fun f g _ d hd => ?_⟩
  · intro t t' r r' x hx
    rw [row] at hx
    cases hx
  · exact fun t r _ _ => row t r
  · intro t r r' x hx
    rw [row] at hx
    cases hx
  · rw [format]
    decide
  · intro t r x hx
    rw [row] at hx
    cases hx
  · rw [format] at hd
    cases hd

/-- Every command keeps the formats lawful and the numbers apart. -/
theorem exec_forms {c : Instr} {s u : State} (h : exec c s = .next u) : Forms s u := by
  cases c <;> cases h
  case powerOnReset ready0 ready1 =>
    obtain ⟨formats, apart⟩ := released_formats ready0 ready1 s
    exact fun _ => ⟨formats, fun _ => apart⟩
  case syncCandidateMatch t start bits => exact syncCandidate_forms t start bits s
  case expectedBoundaryComparison t bits => exact boundaryComparison_forms t bits s
  case orderMarkerMatch t start bits => exact markerMatch_forms t start bits s
  case orderFrameReceived t header control body check others => exact orderFrames_forms _ s
  case minorFrameDelivered t words => exact minorFrame_forms t words s
  case waitingFrameProcessed t => exact waitingFrame_forms t s
  case linkUp l => exact linkUp_forms l s
  case linkDown l => exact linkDown_forms l s
  case creditReturn l => exact setLink_forms l _ s
  case stallTimerExpiry l => exact expireTimer_forms l s
  case recordSent l => exact recordSent_forms l s
  case roomNotice records => exact forms_composes.takeNotice records s
  case unknownOrder => exact forms_composes.unknownOrder s
  case echo => exact forms_composes.carryOut (fun _ s => Forms.refl s) s
  case setTrunk arrived steps =>
    exact forms_composes.carryOutSettling (settleFormat_forms .order nofun) (setTrunkFinish_forms arrived) s
  case bindSource => exact forms_composes.carryOut bindSourceOrder_forms s
  case unbindSource steps =>
    exact forms_composes.carryOutSettling (settleFormat_forms .unbind nofun) unbindFinish_forms s
  case stageHeader => exact forms_composes.carryOut (fun o => stagingOrder_forms (placeHeader_forms _) o) s
  case stageSlots =>
    exact forms_composes.carryOut (fun o => stagingOrder_forms (placeSlots_forms (slotItems_inRange _)) o) s
  case stageParams =>
    exact forms_composes.carryOut (fun o => stagingOrder_forms (placeParams_forms (paramItems_inRange _)) o) s
  case discardStage => exact forms_composes.carryOut discardStageOrder_forms s
  case commit => exact forms_composes.carryOut commitOrder_forms s
  case cancelCommit => exact forms_composes.carryOut cancelCommitOrder_forms s
  case tuneParam => exact forms_composes.carryOut tuneParamOrder_forms s
  case readParam =>
    exact forms_composes.carryOut (fun o s => (readParamOrder_state o s).symm ▸ Forms.refl s) s
  case readBank records => exact forms_composes.carryOutUpTo readBankOrder_state s
  case readStatus records => exact forms_composes.carryOutUpTo readStatusOrder_state s
  case clearCounters => exact forms_composes.carryOut clearCountersOrder_forms s
  case setOrderAccept => exact forms_composes.carryOut setOrderAcceptOrder_forms s
  case setEvents => exact forms_composes.carryOut setEventsOrder_forms s
  case restart steps arrived => exact forms_composes.restartOrder (restartStep_forms arrived) steps s

/-- Every step keeps the formats lawful and the numbers apart. -/
theorem step_forms {s u : State} (h : step s = .next u) : Forms s u := by
  unfold step at h
  split at h
  · cases h
    exact passUnit_forms s
  next c rest _ =>
    have front : Forms s { s with pending := rest } := Forms.aside rfl rfl rfl
    exact front.trans (exec_forms h)

/-- Settles O58: every step keeps the formats lawful, and then the numbers apart. -/
theorem stepKeepsNumbersApart : Obligations.StepKeepsNumbersApart := by
  unfold Obligations.StepKeepsNumbersApart
  intro s u formats apart h
  obtain ⟨formats', apart'⟩ := step_forms h formats
  exact ⟨formats', apart' apart⟩

end Sys2Proof.Machine
end

section
/-! PROOFS. The state right after power-on reset and the trunk receivers: the invariants at reset, the count of
differing bits, the candidate in SEARCH, the order marker, the end of order frames, and a reinitialization; from
these the obligations O4, O5, O6, O10, O11 and O12. -/

namespace Sys2Proof.Machine

/-! ### The state at reset -/

/-- The state right after reset is a release from power-on reset with both ready lines inactive. -/
theorem reset_eq_released : State.reset = releasedState false false State.reset := rfl

/-- Settles O4: the reset state is a released one, where nothing is ARMED and the engine is IDLE. -/
theorem invariantsHoldAtReset : Obligations.InvariantsHoldAtReset := by
  unfold Obligations.InvariantsHoldAtReset
  obtain ⟨links, pool, store, ⟨profiles, receivers, rows⟩, evaluation⟩ := released_laws false false State.reset
  obtain ⟨formats, apart⟩ := released_formats false false State.reset
  obtain ⟨orders, waits⟩ := released_orderly false false State.reset
  rw [← reset_eq_released] at links pool store profiles receivers rows evaluation formats apart orders waits
  refine ⟨links, pool, store, profiles, receivers, rows, formats.1, ⟨formats, ?armed, rfl⟩, apart, evaluation,
    orders, waits⟩
  case armed =>
    intro f hf
    have powerOn : State.reset.format f = FormatSlot.powerOn := pick_replicate _ f
    rw [powerOn] at hf
    simp [FormatSlot.powerOn] at hf

/-! ### Differing bits (R3) -/

/-- Counting over a range from its end counts the same. -/
theorem countP_range_sub (P : Nat → Bool) (n : Nat) :
    (List.range n).countP (fun i => P (n - 1 - i)) = (List.range n).countP P := by
  have reversed : (List.range n).map (fun i => n - 1 - i) = (List.range n).reverse := by
    simp [List.range_eq_range', List.reverse_range']
  calc (List.range n).countP (fun i => P (n - 1 - i))
      = ((List.range n).map (fun i => n - 1 - i)).countP P := List.countP_map.symm
    _ = (List.range n).countP P := by rw [reversed, List.countP_reverse]

/-- A profile in range has a pattern of at most 48 bits. -/
theorem Profile.Lawful.pattern_lt {p : Profile} (h : p.Lawful) :
    p.patternBits ≤ 48 ∧ p.pattern.toNat < 2 ^ p.patternBits := by
  rcases h with rfl | ⟨-, -, -, -, -, -, -, -, atMost, fits, -⟩
  · decide
  · exact ⟨atMost, fits⟩

/-- The differing bits are the ones of the L low bits. -/
theorem differingBits_eq_countP {p : Profile} (h : p.Lawful) (bits : Window) :
    differingBits p bits =
      (List.range p.patternBits).countP
        (fun i => bits.getLsbD (48 - p.patternBits + i) != p.pattern.getLsbD i) := by
  obtain ⟨atMost, fits⟩ := h.pattern_lt
  have split : List.range 48 =
      List.range p.patternBits ++ (List.range (48 - p.patternBits)).map (p.patternBits + ·) := by
    rw [← List.range_add, Nat.add_sub_cancel' atMost]
  have above : ∀ i, p.pattern.getLsbD (p.patternBits + i) = false := fun i =>
    Nat.testBit_lt_two_pow (fits.trans_le (Nat.pow_le_pow_right Nat.two_pos (Nat.le_add_right _ i)))
  have shifted : ∀ i, bits.getLsbD (48 - p.patternBits + (p.patternBits + i)) = false := fun i =>
    BitVec.getLsbD_of_ge bits _ (by omega)
  have high : ((List.range (48 - p.patternBits)).map (p.patternBits + ·)).countP
      (fun i => ((bits >>> (48 - p.patternBits)) ^^^ p.pattern).getLsbD i) = 0 := by
    simp [List.countP_eq_zero, above, shifted]
  unfold differingBits onesIn
  rw [split, List.countP_append, high, Nat.add_zero]
  refine List.countP_congr fun i _ => ?_
  simp

/-- Settles O5: counted from the last of the L bits, the places are those of the window from bit 47 on. -/
theorem differingBitsCountMismatches : Obligations.DifferingBitsCountMismatches := by
  unfold Obligations.DifferingBitsCountMismatches
  intro p bits hp
  have atMost := hp.pattern_lt.1
  rw [differingBits_eq_countP hp, ← countP_range_sub, List.countP_eq_length_filter]
  congr 1
  refine List.filter_congr fun i hi => ?_
  have below : i < p.patternBits := List.mem_range.mp hi
  rw [show 48 - p.patternBits + (p.patternBits - 1 - i) = 47 - i by omega]

/-! ### A candidate in SEARCH (R6, R12) -/

section
variable {t : Trunk} {start : Nat} {bits : Window} {s : State} {x : Receiver}

/-- What SYNC_CANDIDATE_MATCH does in SEARCH, for a candidate that can be decided. -/
theorem exec_syncCandidateMatch_of_open (hs : (s.receiver t).sync = .search)
    (ho : (s.receiver t).candidateOpen start (s.receiver t).profile.patternBits = true) :
    exec (.syncCandidateMatch t start bits) s =
      .next (if syncMatches (s.receiver t).profile (bits <<< (48 - (s.receiver t).profile.patternBits)) &&
          !(s.receiver t).markerComplete (start + (s.receiver t).profile.patternBits) bits then
        changeReceiver t
          (((s.receiver t).seen (start + (s.receiver t).profile.patternBits)).candidateStep start) s
      else s.setReceiver t ((s.receiver t).seen (start + (s.receiver t).profile.patternBits))) :=
  congrArg Host.Outcome.next (if_pos ⟨hs, ho⟩)

end

/-- Settles O6: a candidate that misses, or whose last bit completes a marker, leaves SEARCH; any other is
the receiver's candidate step. -/
theorem candidateDecided : Obligations.CandidateDecided := by
  unfold Obligations.CandidateDecided
  rintro t start last bits candidate s x x' rfl hsync horder hresume rfl harrived rfl rfl
  have ho : (s.receiver t).candidateOpen start (s.receiver t).profile.patternBits = true := by
    simp [Receiver.candidateOpen, horder, hresume, harrived]
  have run := exec_syncCandidateMatch_of_open (bits := bits) hsync ho
  refine ⟨?misses, ?marker, ?decided⟩
  case misses =>
    intro hm
    rw [run, if_neg (by simp [syncMatches, hm])]
    rfl
  case marker =>
    intro hbits hnext
    rw [run, if_neg (by simp [Receiver.markerComplete, Config.orderMarker, hbits, hnext])]
    rfl
  case decided =>
    intro hm hbits
    have notMarker : (s.receiver t).markerComplete (start + (s.receiver t).profile.patternBits) bits = false := by
      rcases hbits with other | early
      · simp [Receiver.markerComplete, Config.orderMarker, other]
      · simp [Receiver.markerComplete, early]
    rw [run, if_pos (by simp [syncMatches, hm, notMarker])]
    constructor
    case left =>
      intro hv
      have step : ((s.receiver t).seen (start + (s.receiver t).profile.patternBits)).candidateStep start =
          ((s.receiver t).seen (start + (s.receiver t).profile.patternBits)).takeFrame start .locked 0 0
            (collect start false) := if_neg (Nat.not_lt.mpr hv)
      rw [step, changeReceiver_of_sync_ne (by rw [hsync]; exact nofun), hsync]
      rfl
    case right =>
      intro hv
      have step : ((s.receiver t).seen (start + (s.receiver t).profile.patternBits)).candidateStep start =
          ((s.receiver t).seen (start + (s.receiver t).profile.patternBits)).takeFrame start .verify 1 0
            none := if_pos hv
      rw [step, changeReceiver_of_sync_ne (by rw [hsync]; exact nofun), hsync]
      rfl

/-! ### The order marker (R12, R13) -/

/-- Settles O10: where a marker may begin, the 32 bits alone decide. -/
theorem markerOpensOrderFrame : Obligations.MarkerOpensOrderFrame := by
  unfold Obligations.MarkerOpensOrderFrame
  rintro t start bits s x rfl horder hbegin
  have sought : (s.receiver t).markerOpen start = true := by
    rcases hbegin with ⟨boundary, frame, here⟩ | ⟨elsewhere, resume, arrived⟩
    · simp [Receiver.markerOpen, Receiver.boundaryOpen, boundary, horder, frame, here]
    · simp [Receiver.markerOpen, Receiver.candidateOpen, elsewhere, horder, resume, arrived]
  constructor
  case left =>
    intro hbits
    exact congrArg Host.Outcome.next (if_pos (by simp [sought, hbits, Config.orderMarker]))
  case right =>
    intro hbits
    exact congrArg Host.Outcome.next (if_neg (by simp [Config.orderMarker, hbits]))

/-! ### Order frames (R13, R14, R147, R177) -/

/-- One order frame alone is taken at its own trunk. -/
theorem orderFrames_single (t : Trunk) (w : OrderFrame) (s : State) :
    orderFrames (put (Vector.replicate 4 none) t (some w)) s = orderFrame t w s := by
  match t with
  | 0 => rfl
  | 1 => rfl
  | 2 => rfl
  | 3 => rfl

/-- The end of an order frame at a receiver that compares at boundaries, and elsewhere (R13). -/
theorem Receiver.orderEnded_eq (x : Receiver) (last : Nat) :
    x.orderEnded last =
      if x.sync.atBoundary then
        { x with arrived := max x.arrived last, order := none, boundary := some last }
      else { x with arrived := max x.arrived last, order := none, resume := last } := rfl

/-- The end of an order frame leaves the counters. -/
theorem Receiver.orderEnded_counters (x : Receiver) (last : Nat) : (x.orderEnded last).counters = x.counters := by
  unfold Receiver.orderEnded
  split <;> rfl

section
variable {t : Trunk} {w : OrderFrame} {s : State} {m : Nat}

/-- An order frame whose check fails is counted rejected (R14). -/
theorem orderFrame_rejected (ho : (s.receiver t).order = some m) (hl : w.body.length = bodyCountOf w.control)
    (hc : crcOf (w.header :: w.control :: w.body) ≠ w.check) :
    orderFrame t w s =
      (s.setReceiver t ((s.receiver t).orderEnded (m + 16 * (w.body.length + 5)))).onCounters t
        (fun c => { c with rejected := bump c.rejected }) := by
  simp only [orderFrame, ho, if_pos hl, if_neg hc]

/-- An order frame whose check passes is counted taken and handed to the order unit (R14). -/
theorem orderFrame_taken (ho : (s.receiver t).order = some m) (hl : w.body.length = bodyCountOf w.control)
    (hc : crcOf (w.header :: w.control :: w.body) = w.check) :
    orderFrame t w s =
      handOrder { trunk := t, header := w.header, control := w.control, body := w.body }
        ((s.setReceiver t ((s.receiver t).orderEnded (m + 16 * (w.body.length + 5)))).onCounters t
          (fun c => { c with taken := bump c.taken })) := by
  simp only [orderFrame, ho, if_pos hl, if_pos hc]

end

/-- A receiver set and then its counters changed. -/
theorem setReceiver_onCounters (t : Trunk) (x : Receiver) (g : TrunkCounters → TrunkCounters) (s : State) :
    (s.setReceiver t x).onCounters t g = s.setReceiver t { x with counters := g x.counters } := by
  simp [State.onCounters]

/-- The check register after a word: one place shifted for each bit, bit 15 first (R177). -/
theorem crcWord_eq (reg w : Word) :
    crcWord reg w =
      [15, 14, 13, 12, 11, 10, 9, 8, 7, 6, 5, 4, 3, 2, 1, 0].foldl
        (fun (r : Word) (i : Nat) =>
          if w.getLsbD i = r.getLsbD 15 then r <<< 1 else (r <<< 1) ^^^ 0x1021#16) reg := by
  have bit : ∀ (r : Word) (b : Bool),
      crcBit r b = if b = r.getLsbD 15 then r <<< 1 else (r <<< 1) ^^^ 0x1021#16 := by
    intro r b
    by_cases h : b = r.getLsbD 15 <;> simp [crcBit, h]
  simp only [crcWord, bit]

/-- Settles O11: the frames are taken in trunk order, each ends at its last word, and the check value is built word
by word. -/
theorem orderFrameEnds : Obligations.OrderFrameEnds := by
  unfold Obligations.OrderFrameEnds
  refine ⟨?inOrder, ?ends, rfl, ?word⟩
  case inOrder =>
    rintro t v others frames s a b c d rfl rfl rfl rfl rfl
    rfl
  case ends =>
    rintro t w s x y m last rfl horder hlength rfl rfl
    have alone : exec (.orderFrameReceived t w.header w.control w.body w.check) s = .next (orderFrame t w s) :=
      congrArg Host.Outcome.next (orderFrames_single t w s)
    rw [alone, ← Receiver.orderEnded_eq, ← Receiver.orderEnded_counters (s.receiver t)
      (m + 16 * (w.body.length + 5))]
    constructor
    case left =>
      intro hc
      rw [orderFrame_rejected horder hlength hc, setReceiver_onCounters]
    case right =>
      intro hc
      rw [orderFrame_taken horder hlength hc, setReceiver_onCounters]
  case word =>
    intro ws w
    rw [← crcWord_eq, crcOf, List.foldl_concat]
    rfl

/-! ### Work on rows and formats -/

/-- `u` follows from `s` by work on rows and formats: no receiver and nothing that waits at a tracker is
another. -/
structure RowWork (s u : State) : Prop where
  receivers : u.receivers = s.receivers
  waiting : ∀ t, (u.tracker t).waiting = (s.tracker t).waiting

theorem RowWork.refl (s : State) : RowWork s s := ⟨rfl, fun _ => rfl⟩

theorem RowWork.trans {s u v : State} (h : RowWork s u) (k : RowWork u v) : RowWork s v :=
  ⟨k.receivers.trans h.receivers, fun t => (k.waiting t).trans (h.waiting t)⟩

theorem RowWork.foldl {α : Type} {step : State → α → State} (h : ∀ s a, RowWork s (step s a)) (xs : List α) :
    ∀ s, RowWork s (xs.foldl step s) := by
  induction xs with
  | nil => exact RowWork.refl
  | cons x xs ih => exact fun s => (h s x).trans (ih _)

theorem postEvent_rowWork (k : EventKind) (subject : Word) (cc : Count) (details : List Word) (s : State) :
    RowWork s (postEvent k subject cc details s) := by
  obtain ⟨ls, n, e⟩ := postEvent_frame k subject cc details s
  rw [e]
  exact ⟨rfl, fun _ => rfl⟩

theorem setRow_rowWork (t : Trunk) (r : RowIx) (x : Option Row) (s : State) : RowWork s (s.setRow t r x) :=
  ⟨rfl, fun k => setRow_waiting s t k r x⟩

theorem onRow_rowWork (t : Trunk) (r : RowIx) (g : Row → Row) (s : State) : RowWork s (s.onRow t r g) := by
  unfold State.onRow
  split
  case h_1 => exact RowWork.refl s
  case h_2 => exact setRow_rowWork _ _ _ _

theorem changeRow_rowWork (t : Trunk) (r : RowIx) (g : Row → Row) (s : State) : RowWork s (changeRow t r g s) := by
  unfold changeRow
  split
  case h_1 => exact RowWork.refl s
  case h_2 =>
    split
    case isTrue => exact setRow_rowWork _ _ _ _
    case isFalse => exact (setRow_rowWork _ _ _ _).trans (postEvent_rowWork _ _ _ _ _)

theorem setFormat_rowWork (f : Slot) (x : FormatSlot) (s : State) : RowWork s (s.setFormat f x) := ⟨rfl, fun _ => rfl⟩

theorem breakCounted_rowWork (f : Slot) (t : Trunk) (r : RowIx) (s : State) : RowWork s (breakCounted f t r s) :=
  (onRow_rowWork t r _ s).trans ⟨rfl, fun _ => rfl⟩

theorem passProbation_rowWork (f : Slot) (s : State) : RowWork s (passProbation f s) :=
  (setFormat_rowWork _ _ _).trans (postEvent_rowWork _ _ _ _ _)

theorem countDiscarded_rowWork (f : Slot) (s : State) : RowWork s (countDiscarded f s) := by
  unfold countDiscarded
  split
  case h_1 => exact RowWork.refl s
  case h_2 => exact onRow_rowWork _ _ _ _

theorem adjustBound_rowWork (f : Slot) (s : State) : RowWork s (adjustBound f s) := by
  unfold adjustBound
  split
  case h_1 => exact RowWork.refl s
  case h_2 => exact changeRow_rowWork _ _ _ _

theorem switchFormat_rowWork (f : Slot) (cause : SwitchCause) (s : State) : RowWork s (switchFormat f cause s) := by
  have core : RowWork s (switchCore f cause s) :=
    (setFormat_rowWork f _ s).trans ((countDiscarded_rowWork f _).trans ⟨rfl, fun _ => rfl⟩)
  exact core.trans ((postEvent_rowWork _ _ _ _ _).trans (adjustBound_rowWork _ _))

theorem switchAtBoundary_rowWork (f : Slot) (s : State) : RowWork s (switchAtBoundary f s) := by
  unfold switchAtBoundary
  split
  case isTrue => exact switchFormat_rowWork _ _ _
  case isFalse =>
    split
    case h_1 => exact RowWork.refl s
    case h_2 =>
      split
      case isTrue => exact passProbation_rowWork _ _
      case isFalse => exact setFormat_rowWork _ _ _

theorem switchAtLoss_rowWork (f : Slot) (cause : LossCause) (s : State) : RowWork s (switchAtLoss f cause s) := by
  unfold switchAtLoss
  split
  case isTrue => exact switchFormat_rowWork _ _ _
  case isFalse =>
    split
    case isTrue => exact switchFormat_rowWork _ _ _
    case isFalse => exact RowWork.refl s

theorem loseLock_rowWork (t : Trunk) (r : RowIx) (cause : LossCause) (s : State) :
    RowWork s (loseLock t r cause s) := by
  unfold loseLock
  split
  case h_1 => exact RowWork.refl s
  case h_2 =>
    exact (changeRow_rowWork _ _ _ _).trans ((breakCounted_rowWork _ _ _ _).trans (switchAtLoss_rowWork _ _ _))

theorem endRow_rowWork (t : Trunk) (cause : LossCause) (s : State) (r : RowIx) :
    RowWork s (endRow t cause s r) := by
  unfold endRow
  split
  case h_1 => exact RowWork.refl s
  case h_2 =>
    split
    case h_1 => exact loseLock_rowWork _ _ _ _
    case h_2 => exact changeRow_rowWork _ _ _ _
    case h_3 => exact RowWork.refl s
    case h_4 => exact RowWork.refl s

theorem endDelivery_rowWork (t : Trunk) (cause : LossCause) (s : State) : RowWork s (endDelivery t cause s) :=
  RowWork.foldl (endRow_rowWork t cause) rowList s

theorem routeFrame_rowWork (t : Trunk) (r : RowIx) (st : Standing) (words : List Word) (mark : Bool) (s : State) :
    RowWork s (routeFrame t r st words mark s) := by
  obtain ⟨cs, rs, ls, n, e⟩ := routeFrame_frame t r st words mark s
  rw [e]
  exact ⟨rfl, fun _ => rfl⟩

theorem cycleStep_rowWork (t : Trunk) (r : RowIx) (h : Header) (words : List Word) (x : Row) (s : State) :
    RowWork s (cycleStep t r h words x s).1 := by
  unfold cycleStep
  split
  case h_1 => exact RowWork.refl s
  case h_2 => exact changeRow_rowWork _ _ _ _
  case h_3 => exact changeRow_rowWork _ _ _ _
  case h_4 =>
    dsimp only
    split
    case isTrue => exact (setRow_rowWork _ _ _ _).trans (loseLock_rowWork _ _ _ _)
    case isFalse => exact setRow_rowWork _ _ _ _

theorem cycleBoundary_rowWork (t : Trunk) (r : RowIx) (s : State) : RowWork s (cycleBoundary t r s) := by
  unfold cycleBoundary
  split
  case h_1 => exact RowWork.refl s
  case h_2 =>
    exact (onRow_rowWork _ _ _ _).trans ((breakCounted_rowWork _ _ _ _).trans (switchAtBoundary_rowWork _ _))

theorem rowFrame_rowWork (t : Trunk) (r : RowIx) (x : Row) (words : List Word) (mark : Bool) (s : State) :
    RowWork s (rowFrame t r x words mark s) := by
  unfold rowFrame
  split
  case isTrue => exact RowWork.refl s
  case isFalse =>
    split
    case h_1 => exact RowWork.refl s
    case h_2 h _ =>
      have routed := (cycleStep_rowWork t r h words x s).trans
        (routeFrame_rowWork t r (cycleStep t r h words x s).2 words mark _)
      dsimp only
      split
      case isTrue => exact routed.trans (cycleBoundary_rowWork _ _ _)
      case isFalse => exact routed

/-- A frame at the tracker of one trunk leaves the receivers of the others. -/
theorem processFrame_receiver_ne {t t' : Trunk} (ht : t' ≠ t) (words : List Word) (mark : Bool) (s : State) :
    (processFrame t words mark s).receiver t' = s.receiver t' := by
  have counted : ∀ g, (s.onCounters t g).receiver t' = s.receiver t' := fun _ =>
    setReceiver_receiver_ne s t _ t' ht.symm
  unfold processFrame
  dsimp only
  split
  case h_1 => exact counted _
  case h_2 =>
    split
    case h_1 => exact counted _
    case h_2 => exact congrArg (fun v => pick v t') (rowFrame_rowWork _ _ _ _ _ _).receivers

/-- Taking what waits at one trunk leaves the receivers of the others. -/
theorem drainWaiting_receiver_ne {t t' : Trunk} (ht : t' ≠ t) (s : State) :
    (drainWaiting t s).receiver t' = s.receiver t' := by
  have taken : ∀ (u : State) (w : Waiting), (takeWaiting t u w).receiver t' = u.receiver t' := by
    intro u w
    cases w with
    | frame words mark => exact processFrame_receiver_ne ht words mark u
    | deliveryEnded => exact congrArg (fun v => pick v t') (endDelivery_rowWork t .traffic u).receivers
  have all : ∀ (ws : List Waiting) (u : State), (ws.foldl (takeWaiting t) u).receiver t' = u.receiver t' := by
    intro ws
    induction ws with
    | nil => exact fun _ => rfl
    | cons w ws ih => exact fun u => (ih _).trans (taken u w)
  exact all _ _

/-! ### Reinitialization (R19, R20) -/

/-- A changed receiver is the given one, and no other receiver is another. -/
theorem changeReceiver_receivers (t : Trunk) (y : Receiver) (s : State) :
    (changeReceiver t y s).receivers = (s.setReceiver t y).receivers := by
  unfold changeReceiver
  split
  case isTrue => rfl
  case isFalse => exact (postEvent_rowWork _ _ _ _ _).receivers

/-- A receiver reinitialized, written out: with waiting frames taken it is the receiver as it was but for its
counters. -/
theorem Receiver.seen_reinit_counters (x : Receiver) (c : TrunkCounters) (n : Nat) (p : Profile) :
    (({ x with counters := c } : Receiver).seen n).reinit p =
      { x with
        profile := p, sync := if p.enable then .search else .off, hits := 0, misses := 0,
        arrived := max x.arrived n, resume := max x.arrived n, boundary := none, frame := none, counters := c } := rfl

/-- Settles O12: what waits changes the receiver's counters alone, the signal no receiver, and the counters are then
cleared. -/
theorem reinitializedTrunk : Obligations.ReinitializedTrunk := by
  unfold Obligations.ReinitializedTrunk
  intro t p n s
  obtain ⟨c, counted⟩ := (drainWaiting_keeps t s).receivers t
  have ended : ∀ u t', (endDelivery t .order u).receiver t' = u.receiver t' := fun u t' =>
    congrArg (fun v => pick v t') (endDelivery_rowWork t .order u).receivers
  have changed : ∀ y u t', (changeReceiver t y u).receiver t' = (u.setReceiver t y).receiver t' := fun y u t' =>
    congrArg (fun v => pick v t') (changeReceiver_receivers t y u)
  refine ⟨?own, ?others, ?steps⟩
  case own =>
    unfold reinitTrunk State.onCounters
    rw [setReceiver_receiver_same, ended, changed, setReceiver_receiver_same, counted,
      Receiver.seen_reinit_counters]
    rfl
  case others =>
    intro t' ht
    unfold reinitTrunk State.onCounters
    rw [setReceiver_receiver_ne _ _ _ _ ht.symm, ended, changed, setReceiver_receiver_ne _ _ _ _ ht.symm,
      drainWaiting_receiver_ne ht]
  case steps =>
    intro a b c old new x ha hold hnew hx hb hc
    have drained : a = drainWaiting t s := ha
    have sync : (s.receiver t).sync = ((drainWaiting t s).receiver t).sync :=
      (congrArg Receiver.sync counted).symm
    have arrived : (s.receiver t).arrived = ((drainWaiting t s).receiver t).arrived :=
      (congrArg Receiver.arrived counted).symm
    rw [hc, hb, hx, hnew, hold, drained, sync, arrived]
    rfl

end Sys2Proof.Machine
end

section
/-! PROOFS. The source trackers: how delivered frames and delivery-ended signals reach the tracker, how a frame is
sorted, a row in CYCLE_SEARCH and a cycle of one frame, cycle boundaries, lost lock and the end of delivery; and from
these the obligations O13, O14, O15, O18, O19 and O20. -/

namespace Sys2Proof.Machine

/-! ### What waits at a tracker (R175, R34) -/

/-- With nothing waiting there is nothing to take. -/
theorem drainWaiting_of_nil {t : Trunk} {s : State} (h : (s.tracker t).waiting = []) : drainWaiting t s = s := by
  have same : s.setWaiting t [] = s := by rw [← h, setWaiting_self]
  rw [drainWaiting, h, same, List.foldl_nil]

/-- The signals at the head of what waits are handled, one after another, up to the first frame. -/
theorem takeSignals_replicate (t : Trunk) {rest : List Waiting} (hrest : ∀ rest', rest ≠ .deliveryEnded :: rest')
    (k : Nat) : ∀ s : State,
      takeSignals t (List.replicate k .deliveryEnded ++ rest) s =
        (List.range k).foldl
          (fun u i =>
            endDelivery t .traffic (u.setWaiting t (List.replicate (k - 1 - i) .deliveryEnded ++ rest))) s := by
  induction k with
  | zero =>
    intro s
    cases rest with
    | nil => rfl
    | cons w ws =>
      cases w with
      | frame words mark => rfl
      | deliveryEnded => exact absurd rfl (hrest ws)
  | succ k ih =>
    intro s
    have later : ∀ i : Nat, k - 1 - i = k - i.succ := fun i => by omega
    rw [List.range_succ_eq_map, List.foldl_cons, List.foldl_map, List.replicate_succ, List.cons_append, takeSignals,
      ih]
    simp only [later, Nat.add_sub_cancel, Nat.sub_zero]

section
variable {t : Trunk} {words : List Word} {mark : Bool} {s : State}

/-- While RESTART holds the tracker a frame waits, if there is room. -/
theorem trackerFrame_waits (hh : s.held t = true) (hw : waitingFrames (s.tracker t).waiting < 4) :
    trackerFrame t words mark s = s.setWaiting t ((s.tracker t).waiting ++ [.frame words mark]) :=
  (if_pos hh).trans (if_pos hw)

/-- While RESTART holds the tracker a frame behind four is discarded. -/
theorem trackerFrame_discarded (hh : s.held t = true) (hw : 4 ≤ waitingFrames (s.tracker t).waiting) :
    trackerFrame t words mark s = s :=
  (if_pos hh).trans (if_neg (Nat.not_lt.mpr hw))

/-- Otherwise a frame is processed after everything that waited. -/
theorem trackerFrame_of_not_held (hh : s.held t = false) :
    trackerFrame t words mark s = processFrame t words mark (drainWaiting t s) := by
  simp [trackerFrame, hh]

end

/-- Settles O13: a frame waits, is discarded or is processed by what holds the tracker, and what waits is taken up
to the next frame. -/
theorem framesReachTracker : Obligations.FramesReachTracker := by
  unfold Obligations.FramesReachTracker
  refine ⟨?delivered, ?waiting⟩
  case delivered =>
    intro t words mark s
    refine ⟨?counted, trackerFrame_waits, trackerFrame_discarded, ?nothing, ?others, rfl, rfl⟩
    case counted =>
      rintro x c rfl hframe hlength
      refine congrArg Host.Outcome.next ?_
      simp only [minorFrame, hframe, if_pos hlength]
      rfl
    case nothing =>
      intro hh hw
      rw [trackerFrame_of_not_held hh, drainWaiting_of_nil hw]
    case others =>
      intro u hh hu
      rw [trackerFrame_of_not_held hh, hu]
      rfl
  case waiting =>
    intro t words mark k rest s
    refine ⟨?held, ?nothing, ?first⟩
    case held =>
      intro hh
      exact congrArg Host.Outcome.next (if_pos hh)
    case nothing =>
      intro hw
      refine congrArg Host.Outcome.next ?_
      simp only [waitingFrame, hw, ite_self]
    case first =>
      intro hh hw hrest
      refine congrArg Host.Outcome.next ?_
      simp only [waitingFrame, hh, hw, Bool.false_eq_true, if_false]
      exact takeSignals_replicate t hrest k _

/-! ### Sorting (R24, R25, R26) -/

section
variable {t : Trunk} {words : List Word} {mark : Bool} {s : State}

/-- A frame that is sorted to no row counts as unmatched. -/
theorem processFrame_unmatched (h : sortFrame s t words = none) :
    processFrame t words mark s = s.onCounters t (fun c => { c with unmatched := bump c.unmatched }) := by
  simp only [processFrame, h]

/-- A frame that is sorted to an occupied row goes to it. -/
theorem processFrame_row {r : RowIx} {y : Row} (h : sortFrame s t words = some r) (hy : s.row t r = some y) :
    processFrame t words mark s = rowFrame t r y words mark s := by
  simp only [processFrame, h, hy]

/-- On an untagged trunk a frame goes to row 0 (R24). -/
theorem sortFrame_untagged (hp : (s.receiver t).profile.tagPos = 0) :
    sortFrame s t words = if (s.row t 0).isSome then some 0 else none := if_pos hp

/-- On a tagged trunk a frame goes to the first row with its tag value (R24). -/
theorem sortFrame_tagged (hp : (s.receiver t).profile.tagPos ≠ 0) :
    sortFrame s t words =
      rowList.find? (fun r => hasTag (words.getD ((s.receiver t).profile.tagPos - 1) 0).toNat (s.row t r)) := if_neg hp

end

/-- A row has a tag value when it is occupied with it. -/
theorem hasTag_iff {v : Nat} {x : Option Row} : hasTag v x = true ↔ ∃ y, x = some y ∧ y.tag = some v := by
  cases x <;> simp [hasTag]

/-- Settles O14: the row a frame is sorted to decides. -/
theorem frameSorted : Obligations.FrameSorted := by
  unfold Obligations.FrameSorted
  rintro t words mark s u x v rfl rfl hu
  refine ⟨?vacant, ?unmatched, ?rowZero, ?tagged, ?unformatted⟩
  case vacant =>
    intro hp hrow
    rw [processFrame_unmatched (by rw [sortFrame_untagged hp, hrow]; rfl), hu]
    rfl
  case unmatched =>
    intro hp hrows
    have none_of_rows : sortFrame s t words = none := by
      rw [sortFrame_tagged hp, List.find?_eq_none]
      intro r _ hr
      obtain ⟨y, hy, hv⟩ := hasTag_iff.mp hr
      exact hrows r y hy hv
    rw [processFrame_unmatched none_of_rows, hu]
    rfl
  case rowZero =>
    intro y hp hy
    exact processFrame_row (by rw [sortFrame_untagged hp, hy]; rfl) hy
  case tagged =>
    intro r y hp hy hv only
    have found : sortFrame s t words = some r := by
      rw [sortFrame_tagged hp]
      generalize (words.getD ((s.receiver t).profile.tagPos - 1) 0).toNat = v at hv only
      cases hf : rowList.find? (fun q => hasTag v (s.row t q)) with
      | none => exact absurd (hasTag_iff.mpr ⟨y, hy, hv⟩) (List.find?_eq_none.mp hf r (mem_rowList r))
      | some q =>
        have tagged : hasTag v (s.row t q) = true := List.find?_some (p := fun q => hasTag v (s.row t q)) hf
        obtain ⟨z, hz, hzv⟩ := hasTag_iff.mp tagged
        rw [only q z hz hzv]
    exact processFrame_row found hy
  case unformatted =>
    intro r y hc
    exact if_pos hc

/-! ### A row in CYCLE_SEARCH, and cycles of one frame (R28, R31) -/

section
variable {h : Header} {words : List Word} {x : Row} {n : Nat}

/-- A number in range with a verify count above 1: checking begins. -/
theorem searchRow_checks (hm : h.length ≠ 1) (hn : frameNumberOf h (idWordOf h words) = some n) (hv : 1 < h.verify) :
    searchRow h words x = (x.checkAt h.length n 1, { locked := false, number := n }) := by
  simp only [searchRow, if_neg hm, hn, if_pos hv]

/-- A number in range with verify count 1: the row locks. -/
theorem searchRow_locks (hm : h.length ≠ 1) (hn : frameNumberOf h (idWordOf h words) = some n) (hv : h.verify ≤ 1) :
    searchRow h words x = (x.lockAt h.length n, { locked := true, number := n }) := by
  simp only [searchRow, if_neg hm, hn, if_neg (Nat.not_lt.mpr hv)]

/-- A number out of range leaves the row. -/
theorem searchRow_outOfRange (hm : h.length ≠ 1) (hn : frameNumberOf h (idWordOf h words) = none) :
    searchRow h words x = (x, { locked := false, number := x.current }) := by
  simp only [searchRow, if_neg hm, hn]

/-- With one frame in the cycle the row locks without an ID word. -/
theorem searchRow_single (hm : h.length = 1) :
    searchRow h words x = (x.lockAt 1 0, { locked := true, number := 0 }) := if_pos hm

variable {t : Trunk} {r : RowIx} {y : Row} {s : State} {st : Standing}

/-- In CYCLE_SEARCH a row that leaves posts CYCLE_SYNC. -/
theorem cycleStep_search_leaves (hx : s.row t r = some x) (hc : x.cycle = .search)
    (hr : searchRow h words x = (y, st)) (hy : y.cycle ≠ .search) :
    cycleStep t r h words x s = (postCycleSync t r .search y (s.setRow t r (some y)), st) := by
  have other : x.cycle ≠ y.cycle := hc ▸ hy.symm
  simp only [cycleStep, hc, hr, changeRow_of_cycle_ne (g := fun _ => y) hx other]

/-- In CYCLE_SEARCH a row that is left as it is leaves the state. -/
theorem cycleStep_search_same (hx : s.row t r = some x) (hc : x.cycle = .search)
    (hr : searchRow h words x = (x, st)) : cycleStep t r h words x s = (s, st) := by
  have same : s.setRow t r (some x) = s := by rw [← hx, setRow_self]
  simp only [cycleStep, hc, hr, changeRow_of_cycle_eq (g := fun _ => x) hx rfl, same]

/-- In CYCLE_LOCKED with one frame in the cycle no ID word is read (R31). -/
theorem cycleStep_locked_single (hc : x.cycle = .locked) (hm : h.length = 1) :
    cycleStep t r h words x s =
      (s.setRow t r (some { x with expected := 0, current := 0 }), { locked := true, number := 0 }) := by
  simp [cycleStep, hc, lockedRow, hm]

end

/-- Settles O15: the cases of R28 and R31, each the row that the frame gives and what a frame with that row does. -/
theorem frameInSearchOrSingleFrameCycle : Obligations.FrameInSearchOrSingleFrameCycle := by
  unfold Obligations.FrameInSearchOrSingleFrameCycle
  refine ⟨?several, ?single⟩
  case several =>
    rintro t r x h words mark s v n hx hc hh hm rfl rfl
    have formatted : x.cycle ≠ .unformatted := by simp [hc]
    refine ⟨?checks, ?locks, ?outOfRange⟩
    case checks =>
      rintro hb hn hv y rfl
      have hr := searchRow_checks (x := x) hm.ne' (frameNumberOf_of_inRange hb hn) hv
      exact rowFrame_of_unlocked formatted hh (cycleStep_search_leaves hx hc hr nofun) mark
    case locks =>
      intro hb hn hv y u hy hu
      have hr := searchRow_locks (x := x) hm.ne' (frameNumberOf_of_inRange hb hn) hv
      rw [hu, hy]
      exact rowFrame_of_locked formatted hh (cycleStep_search_leaves hx hc hr nofun) mark
    case outOfRange =>
      intro ho
      have hr := searchRow_outOfRange (x := x) hm.ne' (frameNumberOf_of_outOfRange ho)
      exact rowFrame_of_unlocked formatted hh (cycleStep_search_same hx hc hr) mark
  case single =>
    intro t r x h words mark s hx hh hm
    have lastFrame : 0 + 1 = h.length := by rw [hm]
    constructor
    case left =>
      rintro hc y rfl
      have formatted : x.cycle ≠ .unformatted := by simp [hc]
      rw [rowFrame_of_locked formatted hh (cycleStep_search_leaves hx hc (searchRow_single hm) nofun) mark,
        if_pos lastFrame]
      rfl
    case right =>
      intro hc
      have formatted : x.cycle ≠ .unformatted := by simp [hc]
      rw [rowFrame_of_locked formatted hh (cycleStep_locked_single hc hm) mark, if_pos lastFrame]

/-! ### Contexts and format slots across events and row changes -/

@[simp] theorem postEvent_contextsOf (k : EventKind) (subject : Word) (cc : Count) (details : List Word) (s : State)
    (f : Slot) : (postEvent k subject cc details s).contextsOf f = s.contextsOf f := by
  obtain ⟨ls, n, e⟩ := postEvent_frame k subject cc details s
  rw [e]
  rfl

@[simp] theorem postEvent_format (k : EventKind) (subject : Word) (cc : Count) (details : List Word) (s : State)
    (f : Slot) : (postEvent k subject cc details s).format f = s.format f := by
  obtain ⟨ls, n, e⟩ := postEvent_frame k subject cc details s
  rw [e]
  rfl

/-- A change of a row leaves the contexts. -/
@[simp] theorem changeRow_contextsOf (t : Trunk) (r : RowIx) (g : Row → Row) (s : State) (f : Slot) :
    (changeRow t r g s).contextsOf f = s.contextsOf f := by
  unfold changeRow
  split
  case h_1 => rfl
  case h_2 =>
    split
    case isTrue => rfl
    case isFalse => exact postEvent_contextsOf _ _ _ _ _ _

/-- A change of an occupied row is the row set. -/
theorem onRow_of_row {t : Trunk} {r : RowIx} {x : Row} {s : State} (hx : s.row t r = some x) (g : Row → Row) :
    s.onRow t r g = s.setRow t r (some (g x)) := by
  simp only [State.onRow, hx]

/-- Contexts broken and counted on an occupied row. -/
theorem breakCounted_of_row {t : Trunk} {r : RowIx} {x : Row} {s : State} (hx : s.row t r = some x) (f : Slot) :
    breakCounted f t r s =
      (s.setRow t r (some { x with broken := addTally x.broken (partialCount (s.contextsOf f)) })).setContexts f
        ((s.contextsOf f).map (fun c => { c with held := none })) := by
  rw [breakCounted, onRow_of_row hx, breakContexts, setRow_contextsOf]

/-- A counted break empties the contexts of one format slot. -/
theorem breakCounted_contextsOf (f : Slot) (t : Trunk) (r : RowIx) (s : State) (g : Slot) :
    (breakCounted f t r s).contextsOf g =
      if f = g then (s.contextsOf f).map (fun c => { c with held := none }) else s.contextsOf g := by
  have kept : ∀ g k, (s.onRow t r k).contextsOf g = s.contextsOf g := by
    intro g k
    unfold State.onRow
    split <;> rfl
  rw [breakCounted, breakContexts, setContexts_contextsOf, kept, kept]

/-- A counted break leaves the format slots. -/
theorem breakCounted_format (f : Slot) (t : Trunk) (r : RowIx) (s : State) (g : Slot) :
    (breakCounted f t r s).format g = s.format g := by
  unfold breakCounted breakContexts State.onRow
  split <;> rfl

/-! ### Cycle boundaries (R32) -/

section
variable {f : Slot} {s : State}

/-- At a cycle boundary an ARMED standby is switched (R70). -/
theorem switchAtBoundary_armed (h : (s.format f).standby = .armed) :
    switchAtBoundary f s = switchFormat f .commit s := if_pos h

/-- At a cycle boundary with nothing ARMED and no probation the switch control does nothing. -/
theorem switchAtBoundary_none (h : (s.format f).standby ≠ .armed) (hp : (s.format f).probation = none) :
    switchAtBoundary f s = s := by
  simp only [switchAtBoundary, if_neg h, hp]

/-- At a cycle boundary a probation above 1 is counted down (R74). -/
theorem switchAtBoundary_counts {n : Nat} (h : (s.format f).standby ≠ .armed)
    (hp : (s.format f).probation = some n) (hn : 1 < n) :
    switchAtBoundary f s = s.setFormat f { s.format f with probation := some (n - 1) } := by
  simp only [switchAtBoundary, if_neg h, hp, if_neg (Nat.not_le.mpr hn)]

/-- A passed probation is cleared, and PROBATION_PASSED posted with the active bank's letter (R74, R76). -/
theorem passProbation_eq (f : Slot) (s : State) :
    passProbation f s =
      postEvent .probationPassed (numWord f.val)
        ((s.setFormat f { s.format f with probation := none }).boundCycleCount f)
        [numWord (s.format f).active.letter] (s.setFormat f { s.format f with probation := none }) := by
  rw [passProbation, postProbationPassed, setFormat_format_same]

/-- At the last cycle boundary of a probation it passes (R74). -/
theorem switchAtBoundary_passes (h : (s.format f).standby ≠ .armed) (hp : (s.format f).probation = some 1) :
    switchAtBoundary f s = passProbation f s := by
  simp only [switchAtBoundary, if_neg h, hp, le_refl, if_true]

end

/-- A cycle boundary of an occupied row: the cycle counted, the contexts broken and counted, the switch control. -/
theorem cycleBoundary_of_row {t : Trunk} {r : RowIx} {x : Row} {s : State} (hx : s.row t r = some x) :
    cycleBoundary t r s =
      switchAtBoundary x.format
        ((s.setRow t r (some
          { x with
            cycleCount := x.cycleCount + 1,
            broken := addTally x.broken (partialCount (s.contextsOf x.format)) })).setContexts x.format
          ((s.contextsOf x.format).map (fun c => { c with held := none }))) := by
  simp only [cycleBoundary, hx]
  rw [onRow_of_row hx, breakCounted_of_row (setRow_row_same _ _ _ _), setRow_setRow, setRow_contextsOf]

/-- Settles O18: what the switch control does at the boundary is decided by the format slot, which counting and
breaking leave. -/
theorem cycleBoundaryTaken : Obligations.CycleBoundaryTaken := by
  unfold Obligations.CycleBoundaryTaken
  intro t r x s u hx hu
  rw [cycleBoundary_of_row hx, ← hu]
  have format : u.format x.format = s.format x.format := by rw [hu]; rfl
  rw [← format]
  exact ⟨switchAtBoundary_armed, switchAtBoundary_none, fun n => switchAtBoundary_counts, fun ha hp =>
    (switchAtBoundary_passes ha hp).trans (passProbation_eq _ _)⟩

/-! ### Lost lock (R33) -/

section
variable {f : Slot} {cause : LossCause} {s : State}

/-- At a loss of lock an ARMED standby is switched (R70). -/
theorem switchAtLoss_armed (h : (s.format f).standby = .armed) :
    switchAtLoss f cause s = switchFormat f .unlock s := if_pos h

/-- At a loss of lock by traffic a probation is reverted (R75). -/
theorem switchAtLoss_reverts (h : (s.format f).standby ≠ .armed) (hp : (s.format f).probation.isSome = true)
    (hc : cause = .traffic) : switchAtLoss f cause s = switchFormat f .revert s := by
  simp [switchAtLoss, h, hp, hc]

/-- At any other loss of lock the switch control does nothing. -/
theorem switchAtLoss_none (h : (s.format f).standby ≠ .armed)
    (hp : (s.format f).probation = none ∨ cause = .order) : switchAtLoss f cause s = s := by
  rcases hp with hp | rfl <;> simp_all [switchAtLoss]

end

/-- A row that has lost lock (R33). -/
def Row.unlocked (x : Row) : Row := { x with cycle := .search, miss := 0, check := 0, losses := bump x.losses }

/-- Loss of lock at a locked row: the loss counted and posted, the contexts broken and counted, the switch
control. -/
theorem loseLock_of_row {t : Trunk} {r : RowIx} {x : Row} {s : State} (hx : s.row t r = some x)
    (hc : x.cycle = .locked) (cause : LossCause) :
    loseLock t r cause s =
      switchAtLoss x.format cause
        (breakCounted x.format t r (postCycleSync t r .locked x.unlocked (s.setRow t r (some x.unlocked)))) := by
  have leaves : x.cycle ≠ x.unlocked.cycle := by rw [hc]; exact nofun
  have changed := changeRow_of_cycle_ne (g := Row.unlocked) hx leaves
  rw [hc] at changed
  simp only [loseLock, hx]
  exact congrArg (fun u => switchAtLoss x.format cause (breakCounted x.format t r u)) changed

/-- Settles O19: what the switch control does at the loss is decided by the format slot, which the steps before it
leave. -/
theorem lockLostHandled : Obligations.LockLostHandled := by
  unfold Obligations.LockLostHandled
  intro t r x y cause s u hx hc hy hu
  have unlocked : y = x.unlocked := hy
  have posted : u = breakCounted x.format t r
      (postCycleSync t r .locked x.unlocked (s.setRow t r (some x.unlocked))) := by rw [hu, unlocked]; rfl
  have contexts : ∀ f,
      (postCycleSync t r .locked x.unlocked (s.setRow t r (some x.unlocked))).contextsOf f = s.contextsOf f :=
    fun f => postEvent_contextsOf _ _ _ _ _ f
  have format : u.format x.format = s.format x.format := by
    rw [posted, breakCounted_format]
    exact postEvent_format _ _ _ _ _ _
  refine ⟨?row, ?contexts, ?switch⟩
  case row =>
    rw [posted, breakCounted_row, if_pos ⟨rfl, rfl⟩, contexts, postCycleSync, postEvent_row, setRow_row_same, unlocked]
    rfl
  case contexts => rw [posted, breakCounted_contextsOf, if_pos rfl, contexts]
  case switch =>
    rw [loseLock_of_row hx hc, ← posted, ← format]
    exact ⟨switchAtLoss_armed, switchAtLoss_reverts, switchAtLoss_none⟩

/-! ### The end of delivery (R34) -/

/-- An adjusted row in CYCLE_SEARCH is as it was (R35). -/
theorem adjustRow_search {x : Row} (h : x.cycle = .search) (b : Bank) : adjustRow b x = x := by
  simp only [adjustRow, h]

@[simp] theorem addTally_zero (c : Count) : addTally c 0 = c := by
  have atMost : c.toNat ≤ 0xFFFFFFFF := Nat.le_of_lt_succ c.isLt
  simp [addTally, Nat.min_eq_left atMost]

/-- Broken contexts are not PARTIAL. -/
theorem partialCount_broken (cs : List Context) :
    partialCount (cs.map (fun c => { c with held := none })) = 0 := by
  simp [partialCount, List.countP_map, List.countP_eq_zero]

/-- A switch gives EMPTY contexts to its own format slot and leaves those of the others. -/
theorem switchFormat_contextsOf (f : Slot) (cause : SwitchCause) (s : State) (g : Slot) :
    (switchFormat f cause s).contextsOf g =
      if f = g then emptyContexts (s.format f).standbyBank else s.contextsOf g := by
  have adjusted : ∀ u, (adjustBound f u).contextsOf g = u.contextsOf g := by
    intro u
    unfold adjustBound
    split
    case h_1 => rfl
    case h_2 => exact changeRow_contextsOf _ _ _ _ _
  obtain ⟨ts, e⟩ := countDiscarded_frame f (s.setFormat f ((s.format f).switched cause))
  rw [switchFormat_eq, adjusted, postBankSwitch, postEvent_contextsOf, switchCore, e, setRuntimes_contextsOf,
    setContexts_contextsOf]
  rfl

/-- The switch control at a loss of lock touches the contexts of its own format slot alone. -/
theorem switchAtLoss_contextsOf {f g : Slot} (h : f ≠ g) (cause : LossCause) (s : State) :
    (switchAtLoss f cause s).contextsOf g = s.contextsOf g := by
  have switched : ∀ c, (switchFormat f c s).contextsOf g = s.contextsOf g := fun c => by
    rw [switchFormat_contextsOf, if_neg h]
  unfold switchAtLoss
  split
  case isTrue => exact switched _
  case isFalse =>
    split
    case isTrue => exact switched _
    case isFalse => rfl

/-- The switch control at a loss of lock leaves every row, once the bound row is in CYCLE_SEARCH and no context is
PARTIAL. -/
theorem switchAtLoss_row {f : Slot} {t : Trunk} {r : RowIx} {y : Row} {s : State} (hb : s.boundRow f = some (t, r))
    (hp : partialCount (s.contextsOf f) = 0) (hy : s.row t r = some y) (hc : y.cycle = .search) (cause : LossCause)
    (t' : Trunk) (r' : RowIx) : (switchAtLoss f cause s).row t' r' = s.row t' r' := by
  have switched : ∀ c, (switchFormat f c s).row t' r' = s.row t' r' := by
    intro c
    rw [switchFormat_row, hb, hp]
    split
    case isTrue h =>
      obtain ⟨rfl, rfl⟩ := Prod.mk.inj (Option.some.inj h)
      simp [hy, adjustRow_search hc]
    case isFalse => rfl
  unfold switchAtLoss
  split
  case isTrue => exact switched _
  case isFalse =>
    split
    case isTrue => exact switched _
    case isFalse => rfl

/-- What the delivery-ended signal makes of a row whose format slot has so many PARTIAL contexts (R34). -/
def Row.ended (x : Row) (partials : Nat) : Row :=
  match x.cycle with
  | .locked => { x.unlocked with broken := addTally x.broken partials }
  | .check => { x with cycle := .search, check := 0 }
  | .search => x
  | .unformatted => x

section
variable {t : Trunk} {r : RowIx} {x : Row} {s : State}

/-- Loss of lock changes its own row alone, and the contexts of its row's format slot alone. -/
theorem loseLock_row (hb : s.BindingsLawful) (hx : s.row t r = some x) (hc : x.cycle = .locked) (cause : LossCause)
    (t' : Trunk) (r' : RowIx) :
    (loseLock t r cause s).row t' r' =
      if t = t' ∧ r = r' then some (x.ended (partialCount (s.contextsOf x.format))) else s.row t' r' := by
  let v := postCycleSync t r .locked x.unlocked (s.setRow t r (some x.unlocked))
  let u := breakCounted x.format t r v
  have contexts : v.contextsOf x.format = s.contextsOf x.format := postEvent_contextsOf _ _ _ _ _ _
  have rows : ∀ t' r', v.row t' r' = if t = t' ∧ r = r' then some x.unlocked else s.row t' r' := fun t' r' =>
    (postEvent_row _ _ _ _ _ _ _).trans (setRow_row _ _ _ _ _ _)
  have own : u.row t r = some (x.ended (partialCount (s.contextsOf x.format))) := by
    rw [show u = breakCounted x.format t r v from rfl, breakCounted_row, if_pos ⟨rfl, rfl⟩, contexts, rows,
      if_pos ⟨rfl, rfl⟩]
    simp only [Row.ended, hc]
    rfl
  have others : ∀ t' r', ¬ (t = t' ∧ r = r') → u.row t' r' = s.row t' r' := fun t' r' h => by
    rw [show u = breakCounted x.format t r v from rfl, breakCounted_row, if_neg h, rows, if_neg h]
  have idle : (x.ended (partialCount (s.contextsOf x.format))).cycle = .search := by
    simp only [Row.ended, hc]
    rfl
  have bound : u.boundRow x.format = some (t, r) := by
    refine (boundRow_of_keys (fun t' r' => ?_) _).trans (boundRow_of_row hb hx)
    by_cases h : t = t' ∧ r = r'
    · obtain ⟨rfl, rfl⟩ := h
      rw [own, hx]
      simp only [Row.ended, hc]
      rfl
    · rw [others t' r' h]
  have none_partial : partialCount (u.contextsOf x.format) = 0 := by
    rw [show u = breakCounted x.format t r v from rfl, breakCounted_contextsOf, if_pos rfl, partialCount_broken]
  rw [loseLock_of_row hx hc, switchAtLoss_row bound none_partial own idle]
  split
  case isTrue h =>
    obtain ⟨rfl, rfl⟩ := h
    exact own
  case isFalse h => exact others t' r' h

theorem loseLock_contextsOf (hx : s.row t r = some x) (hc : x.cycle = .locked) (cause : LossCause) {g : Slot}
    (hg : x.format ≠ g) : (loseLock t r cause s).contextsOf g = s.contextsOf g := by
  rw [loseLock_of_row hx hc, switchAtLoss_contextsOf hg, breakCounted_contextsOf, if_neg hg]
  exact postEvent_contextsOf _ _ _ _ _ _

variable {cause : LossCause}

/-- A vacant row takes no signal. -/
theorem endRow_of_vacant (hx : s.row t r = none) : endRow t cause s r = s := by
  simp only [endRow, hx]

/-- A locked row loses lock. -/
theorem endRow_of_locked (hx : s.row t r = some x) (hc : x.cycle = .locked) :
    endRow t cause s r = loseLock t r cause s := by
  simp only [endRow, hx, hc]

/-- A checking row returns to CYCLE_SEARCH and posts CYCLE_SYNC. -/
theorem endRow_of_check (hx : s.row t r = some x) (hc : x.cycle = .check) :
    endRow t cause s r =
      postCycleSync t r .check { x with cycle := .search, check := 0 }
        (s.setRow t r (some { x with cycle := .search, check := 0 })) := by
  have leaves : x.cycle ≠ .search := by rw [hc]; exact nofun
  simp only [endRow, hx, hc]
  rw [changeRow_of_cycle_ne hx leaves, hc]

/-- Other rows stay. -/
theorem endRow_of_idle (hx : s.row t r = some x) (hc : x.cycle = .search ∨ x.cycle = .unformatted) :
    endRow t cause s r = s := by
  rcases hc with hc | hc <;> simp only [endRow, hx, hc]

/-- The signal at one row changes that row alone. -/
theorem endRow_row (hb : s.BindingsLawful) (t' : Trunk) (r' : RowIx) :
    (endRow t cause s r).row t' r' =
      if t = t' ∧ r = r' then (s.row t' r').map (fun x => x.ended (partialCount (s.contextsOf x.format)))
      else s.row t' r' := by
  have own : ∀ y, s.row t r = some y → (if t = t' ∧ r = r' then
      some (y.ended (partialCount (s.contextsOf y.format))) else s.row t' r') =
        if t = t' ∧ r = r' then (s.row t' r').map (fun x => x.ended (partialCount (s.contextsOf x.format)))
        else s.row t' r' := by
    intro y hy
    split
    case isTrue h =>
      obtain ⟨rfl, rfl⟩ := h
      rw [hy]
      rfl
    case isFalse => rfl
  cases hx : s.row t r with
  | none =>
    rw [endRow_of_vacant hx]
    split
    case isTrue h =>
      obtain ⟨rfl, rfl⟩ := h
      rw [hx]
      rfl
    case isFalse => rfl
  | some x =>
    rw [← own x hx]
    have stays : s.row t' r' = if t = t' ∧ r = r' then some x else s.row t' r' := by
      split
      case isTrue h =>
        obtain ⟨rfl, rfl⟩ := h
        exact hx
      case isFalse => rfl
    cases hc : x.cycle with
    | locked => rw [endRow_of_locked hx hc, loseLock_row hb hx hc]
    | check =>
      rw [endRow_of_check hx hc, postCycleSync, postEvent_row, setRow_row]
      simp only [Row.ended, hc]
    | search =>
      rw [endRow_of_idle hx (Or.inl hc)]
      simpa only [Row.ended, hc] using stays
    | unformatted =>
      rw [endRow_of_idle hx (Or.inr hc)]
      simpa only [Row.ended, hc] using stays

/-- The signal at one row leaves the contexts of other rows' format slots. -/
theorem endRow_contextsOf {g : Slot} (hg : ∀ y, s.row t r = some y → y.format ≠ g) :
    (endRow t cause s r).contextsOf g = s.contextsOf g := by
  cases hx : s.row t r with
  | none => rw [endRow_of_vacant hx]
  | some x =>
    cases hc : x.cycle with
    | locked => rw [endRow_of_locked hx hc, loseLock_contextsOf hx hc cause (hg x hx)]
    | check =>
      rw [endRow_of_check hx hc]
      exact postEvent_contextsOf _ _ _ _ _ _
    | search => rw [endRow_of_idle hx (Or.inl hc)]
    | unformatted => rw [endRow_of_idle hx (Or.inr hc)]

end

/-- The signal at several rows ends each of them, with the PARTIAL contexts counted as they were before. -/
theorem endRows_row (t : Trunk) (cause : LossCause) (r : RowIx) (qs : List RowIx) :
    qs.Nodup → ∀ s : State, s.BindingsLawful →
      (qs.foldl (endRow t cause) s).row t r =
        if r ∈ qs then (s.row t r).map (fun x => x.ended (partialCount (s.contextsOf x.format))) else s.row t r := by
  induction qs with
  | nil =>
    intro _ s _
    simp
  | cons q qs ih =>
    intro distinct s hb
    obtain ⟨notLater, rest⟩ := List.nodup_cons.mp distinct
    rw [List.foldl_cons, ih rest _ ((endRow_keeps t cause s q).bindings hb), endRow_row hb]
    by_cases hr : q = r
    · subst hr
      simp [notLater]
    · have same : (s.row t r).map (fun x => x.ended (partialCount ((endRow t cause s q).contextsOf x.format))) =
          (s.row t r).map (fun x => x.ended (partialCount (s.contextsOf x.format))) := by
        refine Option.map_congr fun x hx => ?_
        rw [endRow_contextsOf fun y hy hf => hr (hb.1 t t q r y hy x hx hf).2]
      simp [hr, Ne.symm hr, same]

/-- The delivery-ended signal ends every row of its trunk. -/
theorem endDelivery_row (t : Trunk) (cause : LossCause) {s : State} (hb : s.BindingsLawful) (r : RowIx) :
    (endDelivery t cause s).row t r =
      (s.row t r).map (fun x => x.ended (partialCount (s.contextsOf x.format))) := by
  rw [endDelivery, endRows_row t cause r rowList (by decide) s hb, if_pos (mem_rowList r)]

/-- Settles O20: the signal waits behind waiting frames, or ends every row of its trunk in turn. -/
theorem deliveryEndedHandled : Obligations.DeliveryEndedHandled := by
  unfold Obligations.DeliveryEndedHandled
  refine ⟨?reaches, ?rows, ?inTurn⟩
  case reaches =>
    intro t s
    refine ⟨?nothing, ?waits, ?after⟩
    case nothing =>
      intro hw
      simp [trackerEnded, hw, drainWaiting_of_nil]
    case waits =>
      intro hh hw
      exact if_pos (by simp [hh, hw])
    case after =>
      intro u hh hu
      rw [hu]
      exact if_neg (by simp [hh])
  case rows =>
    intro t cause s hb r x hx
    rw [endDelivery_row t cause hb, hx, Option.map_some]
    refine ⟨?locked, ?check, ?idle⟩
    case locked =>
      intro hc
      simp only [Row.ended, hc]
      rfl
    case check =>
      intro hc
      simp only [Row.ended, hc]
    case idle =>
      rintro (hc | hc) <;> simp only [Row.ended, hc]
  case inTurn =>
    intro t cause s
    have inTurn : endDelivery t cause s =
        endRow t cause (endRow t cause (endRow t cause (endRow t cause s 0) 1) 2) 3 := by
      simp only [endDelivery, rowList, List.foldl_cons, List.foldl_nil]
    exact ⟨inTurn, fun r => ⟨endRow_of_vacant, fun x hx =>
      ⟨endRow_of_locked hx, endRow_of_check hx, endRow_of_idle hx⟩⟩⟩

end Sys2Proof.Machine
end

section
/-! PROOFS. The switch: what it makes of the format slot, of contexts and runtimes, of the bound row, and what it posts;
a runtime and a row across it; and from these the obligations O21 and O22. -/

namespace Sys2Proof.Machine

/-! ### The format slot -/

/-- The standby state after a switch, by its cause and the bank that leaves the active role (R69). -/
theorem standbyAfter_eq (cause : SwitchCause) (old : Bank) :
    standbyAfter cause old =
      if cause = .revert then .staging else if old.header.isSome then .fallback else .empty := by
  cases cause <;> rfl

/-- The probation after a switch: that of the new header, for a commitment at a cycle boundary (R69, R73). -/
theorem probationAfter_eq (cause : SwitchCause) (new : Bank) :
    probationAfter cause new =
      if cause = .commit then
        match new.header with
        | none => none
        | some h => if 0 < h.probation then some h.probation else none
      else none := by
  cases cause <;> cases hh : new.header <;> simp [probationAfter, hh]

/-- The two banks' letters (Table 11-6). -/
theorem BankId.letter_eq (k : BankId) : k.letter = if k = .a then 0xA else 0xB := by
  cases k <;> rfl

/-! ### The parts of a switch -/

/-- The state with other format slots, contexts and runtimes. -/
def State.withStore (s : State) (fs : Vector FormatSlot 8) (cs : Vector (List Context) 8)
    (rs : Vector (List RuntimeEntry) 8) : State :=
  { s with formats := fs, contexts := cs, runtimes := rs }

section
variable (f : Slot) (cause : SwitchCause) (s : State)

/-- The format slots after a switch. -/
def formatsAfter : Vector FormatSlot 8 := put s.formats f ((s.format f).switched cause)

/-- The contexts after a switch (R79). -/
def contextsAfter : Vector (List Context) 8 := put s.contexts f (emptyContexts (s.format f).standbyBank)

/-- The runtimes after a switch (R77). -/
def runtimesAfter : Vector (List RuntimeEntry) 8 :=
  put s.runtimes f (carryRuntimes (s.format f).activeBank (s.format f).standbyBank (s.runtimesOf f))

/-- The switch of an unbound format slot, up to its event. -/
theorem switchCore_unbound {f : Slot} {s : State} (h : s.boundRow f = none) :
    switchCore f cause s =
      s.withStore (formatsAfter f cause s) (contextsAfter f s) (runtimesAfter f s) := by
  have uncounted : countDiscarded f (s.setFormat f ((s.format f).switched cause)) =
      s.setFormat f ((s.format f).switched cause) := by
    simp only [countDiscarded, setFormat_boundRow, h]
  rw [switchCore, uncounted]
  rfl

/-- The switch of a bound format slot, up to its event: the discarded contexts are counted on the row. -/
theorem switchCore_bound {f : Slot} {t : Trunk} {r : RowIx} {x : Row} {s : State} (h : s.boundRow f = some (t, r))
    (hx : s.row t r = some x) :
    switchCore f cause s =
      (s.setRow t r (some { x with broken := addTally x.broken (partialCount (s.contextsOf f)) })).withStore
        (formatsAfter f cause s) (contextsAfter f s) (runtimesAfter f s) := by
  have counted : countDiscarded f (s.setFormat f ((s.format f).switched cause)) =
      (s.setFormat f ((s.format f).switched cause)).setRow t r
        (some { x with broken := addTally x.broken (partialCount (s.contextsOf f)) }) := by
    simp only [countDiscarded, setFormat_boundRow, h]
    rw [onRow_of_row (s := s.setFormat f ((s.format f).switched cause)) hx]
    rfl
  rw [switchCore, counted]
  rfl

end

/-- The event of a switch leaves format slots, contexts and runtimes. -/
theorem postEvent_store (k : EventKind) (subject : Word) (cc : Count) (details : List Word) (s : State) :
    (postEvent k subject cc details s).formats = s.formats ∧
      (postEvent k subject cc details s).contexts = s.contexts ∧
      (postEvent k subject cc details s).runtimes = s.runtimes := by
  obtain ⟨ls, n, e⟩ := postEvent_frame k subject cc details s
  rw [e]
  exact ⟨rfl, rfl, rfl⟩

/-- A change of a row leaves format slots, contexts and runtimes. -/
theorem changeRow_store (t : Trunk) (r : RowIx) (g : Row → Row) (s : State) :
    (changeRow t r g s).formats = s.formats ∧ (changeRow t r g s).contexts = s.contexts ∧
      (changeRow t r g s).runtimes = s.runtimes := by
  unfold changeRow
  split
  case h_1 => exact ⟨rfl, rfl, rfl⟩
  case h_2 =>
    split
    case isTrue => exact ⟨rfl, rfl, rfl⟩
    case isFalse => exact postEvent_store _ _ _ _ _

/-- Format slots, contexts and runtimes after a switch. -/
theorem switchFormat_store (f : Slot) (cause : SwitchCause) (s : State) :
    (switchFormat f cause s).formats = formatsAfter f cause s ∧
      (switchFormat f cause s).contexts = contextsAfter f s ∧
      (switchFormat f cause s).runtimes = runtimesAfter f s := by
  have core : (switchCore f cause s).formats = formatsAfter f cause s ∧
      (switchCore f cause s).contexts = contextsAfter f s ∧
      (switchCore f cause s).runtimes = runtimesAfter f s := by
    obtain ⟨ts, e⟩ := countDiscarded_frame f (s.setFormat f ((s.format f).switched cause))
    rw [switchCore, e]
    exact ⟨rfl, rfl, rfl⟩
  have adjusted : ∀ u, (adjustBound f u).formats = u.formats ∧ (adjustBound f u).contexts = u.contexts ∧
      (adjustBound f u).runtimes = u.runtimes := by
    intro u
    unfold adjustBound
    split
    case h_1 => exact ⟨rfl, rfl, rfl⟩
    case h_2 => exact changeRow_store _ _ _ _
  obtain ⟨f1, c1, r1⟩ := adjusted (postBankSwitch f cause (switchCore f cause s))
  obtain ⟨f2, c2, r2⟩ := postEvent_store .bankSwitch (numWord f.val) ((switchCore f cause s).boundCycleCount f)
    [switchWord ((switchCore f cause s).format f) cause] (switchCore f cause s)
  obtain ⟨f3, c3, r3⟩ := core
  rw [switchFormat_eq]
  exact ⟨f1.trans (f2.trans f3), c1.trans (c2.trans c3), r1.trans (r2.trans r3)⟩

/-- The runtimes after a switch, format slot by format slot. -/
theorem switchFormat_runtimesOf (f : Slot) (cause : SwitchCause) (s : State) (g : Slot) :
    (switchFormat f cause s).runtimesOf g =
      if f = g then carryRuntimes (s.format f).activeBank (s.format f).standbyBank (s.runtimesOf f)
      else s.runtimesOf g := by
  obtain ⟨-, -, runtimes⟩ := switchFormat_store f cause s
  rw [State.runtimesOf, runtimes, runtimesAfter, pick_put]
  rfl

/-! ### The bound row -/

/-- What adjusting a row leaves (R35). -/
theorem adjustRow_frame (b : Bank) (x : Row) :
    (adjustRow b x).cycleCount = x.cycleCount ∧ (adjustRow b x).current = x.current := by
  unfold adjustRow
  split
  case h_1 => exact ⟨rfl, rfl⟩
  case h_2 => exact ⟨rfl, rfl⟩
  case h_3 => exact ⟨rfl, rfl⟩
  case h_4 =>
    split
    case h_1 => exact ⟨rfl, rfl⟩
    case h_2 => split <;> exact ⟨rfl, rfl⟩

section
variable {f : Slot} {cause : SwitchCause} {s : State}

/-- The switch of an unbound format slot posts BANK_SWITCH with cycle count 0 and ends there. -/
theorem switchFormat_unbound (h : s.boundRow f = none) :
    switchFormat f cause s =
      postEvent .bankSwitch (numWord f.val) 0 [switchWord ((s.format f).switched cause) cause]
        (s.withStore (formatsAfter f cause s) (contextsAfter f s) (runtimesAfter f s)) := by
  have bound : (switchCore f cause s).boundRow f = none :=
    (boundRow_of_keys (switchCore_keeps f cause s).keys f).trans h
  have posted : (postBankSwitch f cause (switchCore f cause s)).boundRow f = none :=
    (boundRow_of_keys (postEvent_keeps _ _ _ _ _).keys f).trans bound
  have format : (switchCore f cause s).format f = (s.format f).switched cause := by
    rw [switchCore_unbound cause h]
    exact pick_put_same _ _ _
  have unadjusted : switchFormat f cause s = postBankSwitch f cause (switchCore f cause s) := by
    simp only [switchFormat_eq, adjustBound, posted]
  have count : (switchCore f cause s).boundCycleCount f = 0 := by
    simp only [State.boundCycleCount, bound]
  rw [unadjusted, postBankSwitch, count, format, switchCore_unbound cause h]

variable {t : Trunk} {r : RowIx} {x : Row}

/-- The switch of a bound format slot posts BANK_SWITCH with the row's cycle count and adjusts the row. -/
theorem switchFormat_bound (h : s.boundRow f = some (t, r)) (hx : s.row t r = some x) :
    switchFormat f cause s =
      changeRow t r (adjustRow (s.format f).standbyBank)
        (postEvent .bankSwitch (numWord f.val) x.cycleCount [switchWord ((s.format f).switched cause) cause]
          ((s.setRow t r (some { x with broken := addTally x.broken (partialCount (s.contextsOf f)) })).withStore
            (formatsAfter f cause s) (contextsAfter f s) (runtimesAfter f s))) := by
  have bound : (switchCore f cause s).boundRow f = some (t, r) :=
    (boundRow_of_keys (switchCore_keeps f cause s).keys f).trans h
  have posted : (postBankSwitch f cause (switchCore f cause s)).boundRow f = some (t, r) :=
    (boundRow_of_keys (postEvent_keeps _ _ _ _ _).keys f).trans bound
  have format : (switchCore f cause s).format f = (s.format f).switched cause := by
    rw [switchCore_bound cause h hx]
    exact pick_put_same _ _ _
  have bank : (postBankSwitch f cause (switchCore f cause s)).activeBank f = (s.format f).standbyBank := by
    rw [State.activeBank, postBankSwitch, postEvent_format, format, FormatSlot.switched_activeBank]
  have row : (switchCore f cause s).row t r =
      some { x with broken := addTally x.broken (partialCount (s.contextsOf f)) } := by
    rw [switchCore_bound cause h hx]
    exact setRow_row_same _ _ _ _
  have adjusted : switchFormat f cause s =
      changeRow t r (adjustRow (s.format f).standbyBank) (postBankSwitch f cause (switchCore f cause s)) := by
    simp only [switchFormat_eq, adjustBound, posted, bank]
  have count : (switchCore f cause s).boundCycleCount f = x.cycleCount := by
    simp only [State.boundCycleCount, bound, row]
  rw [adjusted, postBankSwitch, count, format, switchCore_bound cause h hx]

end

/-- Settles O21: what a switch makes of each part of the state, and its two events. -/
theorem switchExchangesRoles : Obligations.SwitchExchangesRoles := by
  unfold Obligations.SwitchExchangesRoles
  intro f cause s u old new hu hold hnew
  have keeps := switchFormat_keeps f cause s
  have work := switchFormat_rowWork f cause s
  obtain ⟨formats, contexts, runtimes⟩ := switchFormat_store f cause s
  have format : u.format f = (s.format f).switched cause := by rw [hu, switchFormat_format, if_pos rfl]
  have store : ∀ v : State, { v with formats := u.formats, contexts := u.contexts, runtimes := u.runtimes } =
      v.withStore (formatsAfter f cause s) (contextsAfter f s) (runtimesAfter f s) := by
    intro v
    rw [hu, formats, contexts, runtimes]
    rfl
  refine ⟨?slot, ?active, ?contexts, ?runtimes, ?others, ?rows, ?waiting, ?unbound, ?bound, ?word, ?rest⟩
  case slot =>
    rw [format, hold, hnew, ← standbyAfter_eq]
    exact congrArg (fun p => { (s.format f).switched cause with probation := p }) (probationAfter_eq cause _)
  case active => rw [State.activeBank, format, FormatSlot.switched_activeBank, hnew]
  case contexts =>
    rw [hu, switchFormat_contextsOf, if_pos rfl, hnew]
    rfl
  case runtimes =>
    rw [hu, switchFormat_runtimesOf, if_pos rfl, hold, hnew]
    rfl
  case others =>
    intro g hg
    rw [hu, switchFormat_format, switchFormat_contextsOf, switchFormat_runtimesOf, if_neg hg.symm, if_neg hg.symm,
      if_neg hg.symm]
    exact ⟨rfl, rfl, rfl⟩
  case rows =>
    intro t r
    rw [hu, hnew]
    exact switchFormat_row f cause s t r
  case waiting =>
    rw [hu]
    exact work.waiting
  case unbound =>
    intro h
    rw [store, format, hu]
    exact switchFormat_unbound h
  case bound =>
    intro t r x x' y v hb hx hx' hy hv
    obtain ⟨z, hz, hzf⟩ := boundRow_row hb
    obtain rfl : x = z := Option.some.inj (hx.symm.trans hz)
    obtain ⟨cycleCount, current⟩ := adjustRow_frame new x'
    rw [← hy, hx'] at cycleCount current
    have formatOf : y.format = f := by rw [hy, hx', (adjustRow_cycle _ _).2.1, ← hzf]
    have cycleOf : x'.cycle = x.cycle := by rw [hx']
    rw [store, format] at hv
    have switched := switchFormat_bound (cause := cause) hb hx
    rw [← hx', ← hnew, ← hu] at switched
    generalize hw : postEvent .bankSwitch (numWord f.val) x.cycleCount [switchWord ((s.format f).switched cause) cause]
      ((s.setRow t r (some x')).withStore (formatsAfter f cause s) (contextsAfter f s) (runtimesAfter f s)) = w
      at hv switched
    have row : w.row t r = some x' := by
      rw [← hw, postEvent_row]
      exact setRow_row_same _ _ _ _
    constructor
    case left =>
      intro same
      rw [switched, changeRow_of_cycle_eq row (by rw [cycleOf, ← hy, same]), hv, hy]
    case right =>
      intro other
      rw [switched, changeRow_of_cycle_ne row (by rw [cycleOf, ← hy]; exact other.symm), hv, ← hy, cycleOf,
        postCycleSync, cycleCount, formatOf, current]
      rfl
  case word =>
    intro x
    rw [switchWord, BankId.letter_eq]
  case rest =>
    have frame := keeps.frame
    rw [← hu] at frame work
    rw [frame]
    exact ⟨rfl, rfl, work.receivers, rfl, rfl, rfl⟩

/-! ### A runtime across a switch (R77, R78) -/

section
variable {old : Bank} {es : List RuntimeEntry} {new d : ParamDef} {e : RuntimeEntry}

/-- A runtime is carried when number, pieces and signedness agree. -/
theorem carryOne_carried (hd : old.definition? new.number = some d)
    (he : es.find? (fun e => e.number == new.number) = some e) (hp : d.pieces = new.pieces)
    (hs : d.signed = new.signed) :
    carryOne old es new = { number := new.number, runtime := adjustCarried d new e.runtime } := by
  simp only [carryOne, hd, he, if_pos (And.intro hp hs)]

/-- A runtime is fresh when no definition agrees. -/
theorem carryOne_fresh
    (h : ∀ d, old.definition? new.number = some d → d.pieces ≠ new.pieces ∨ d.signed ≠ new.signed) :
    carryOne old es new = { number := new.number, runtime := Runtime.fresh } := by
  unfold carryOne
  split
  case h_1 d e hd _ =>
    rcases h d hd with hp | hs
    · exact if_neg fun k => hp k.1
    · exact if_neg fun k => hs k.2
  case h_2 => rfl

/-- The carried entry is that of the new definition's number. -/
theorem carryOne_number : (carryOne old es new).number = new.number := by
  unfold carryOne
  split
  case h_1 => split <;> rfl
  case h_2 => rfl

end

section
variable {old new : ParamDef} {rt : Runtime}

/-- Latest value, sample count and last emitted value are carried. -/
theorem adjustCarried_kept :
    (adjustCarried old new rt).latest = rt.latest ∧ (adjustCarried old new rt).samples = rt.samples ∧
      (adjustCarried old new rt).emitted = rt.emitted := by
  unfold adjustCarried
  dsimp only
  split <;> exact ⟨rfl, rfl, rfl⟩

/-- The limit machine is carried when both definitions have limits. -/
theorem adjustCarried_limits (h : old.limits.isSome = true ∧ new.limits.isSome = true) :
    (adjustCarried old new rt).limit = rt.limit ∧ (adjustCarried old new rt).candidate = rt.candidate ∧
      (adjustCarried old new rt).run = rt.run := by
  simp [adjustCarried, h.1, h.2]

/-- Otherwise it is at IN. -/
theorem adjustCarried_noLimits (h : old.limits = none ∨ new.limits = none) :
    (adjustCarried old new rt).limit = .inside ∧ (adjustCarried old new rt).candidate = none ∧
      (adjustCarried old new rt).run = 0 := by
  rcases h with h | h <;> simp [adjustCarried, h, Runtime.limitReset]

/-- The NTH count is that under the new emission rule. -/
theorem adjustCarried_nth : (adjustCarried old new rt).nth = nthUnder new.emission rt.nth := by
  unfold adjustCarried
  dsimp only
  split <;> rfl

end

/-- An NTH count not below the new n begins again. -/
theorem nthUnder_of_le {n count : Nat} (h : n ≤ count) : nthUnder (.nth n) count = 0 := if_neg (Nat.not_lt.mpr h)

/-- Any other count is kept. -/
theorem nthUnder_kept {e : Emission} {count : Nat} (h : ∀ n, e = .nth n → count < n) : nthUnder e count = count := by
  cases e with
  | every => rfl
  | change d => rfl
  | nth n => exact if_pos (h n rfl)

/-- Settles O22: the carried runtime part by part, and the row by its cycle state. -/
theorem runtimeAndRowAcrossSwitch : Obligations.RuntimeAndRowAcrossSwitch := by
  unfold Obligations.RuntimeAndRowAcrossSwitch
  refine ⟨?runtime, ?row⟩
  case runtime =>
    intro old es new rt hrt
    refine ⟨carryOne_number, ?carried, ?fresh⟩
    case carried =>
      intro d e hd he hp hs
      rw [carryOne_carried hd he hp hs] at hrt
      obtain ⟨latest, samples, emitted⟩ := adjustCarried_kept (old := d) (new := new) (rt := e.runtime)
      rw [hrt]
      refine ⟨latest, samples, emitted, adjustCarried_limits, adjustCarried_noLimits, ?below, ?kept⟩
      case below =>
        intro n hn hle
        rw [adjustCarried_nth, hn, nthUnder_of_le hle]
      case kept =>
        intro hn
        rw [adjustCarried_nth, nthUnder_kept hn]
    case fresh =>
      intro h
      rw [hrt, carryOne_fresh h]
      rfl
  case row =>
    intro b h x hh hl
    refine ⟨?restarts, fun hc => adjustRow_search hc b, ?below, ?above⟩
    case restarts =>
      rintro (hc | hc)
      · have unchecked : x.check = 0 := hl.1 (by simp [hc])
        simp only [adjustRow, hc, ← unchecked]
      · simp only [adjustRow, hc]
    case below =>
      intro hc he
      simp only [adjustRow, hc, hh, if_neg (Nat.not_le.mpr he)]
    case above =>
      intro hc he
      simp only [adjustRow, hc, hh, if_pos he]

end Sys2Proof.Machine
end

section
/-! PROOFS. The slot router and the units it feeds: which words are looked up and which entries match, overlap of
entries, the assembly of pieces, and one sample taken; and from these the obligations O23, O24, O26 and O29. -/

namespace Sys2Proof.Machine

/-! ### Words that are looked up (R82, R83) -/

/-- A word is looked up past the sync field, but for the tag word and, with M above 1, the ID word (R82). -/
theorem lookedUp_iff (p : Profile) (h : Header) (pos : Nat) :
    lookedUp p (some h) pos = true ↔
      p.syncWords < pos ∧ ¬(p.tagPos ≠ 0 ∧ pos = p.tagPos) ∧ ¬(1 < h.length ∧ pos = h.idPos) := by
  simp [lookedUp, and_assoc, imp_iff_not_or]

/-- An entry matches at its position, in every frame with interval 1, else in its frames of a locked cycle (R83). -/
theorem entryMatches_iff (pos : Nat) (st : Standing) (e : SlotEntry) :
    entryMatches pos st e = true ↔
      e.pos = pos ∧ (e.interval = 1 ∨ (st.locked = true ∧ st.number % e.interval = e.offset)) := by
  simp [entryMatches]

/-- Settles O23: each word is looked up or passed over, and a match gives one piece. -/
theorem slotEntryMatching : Obligations.SlotEntryMatching := by
  unfold Obligations.SlotEntryMatching
  refine ⟨lookedUp_iff, entryMatches_iff, ?frame, ?words⟩
  case frame =>
    intro t r x st words mark s hx
    simp only [routeFrame, hx]
  case words =>
    intro p b t r f st cc mark pos w rest s
    constructor
    case left =>
      intro e hl he
      simp only [routeWords, if_pos hl, he]
    case right =>
      rintro (hl | hn)
      · simp only [routeWords, hl, Bool.false_eq_true, if_false]
      · have unmatched : b.slots.find? (entryMatches pos st) = none := by simpa [List.find?_eq_none] using hn
        simp only [routeWords, unmatched, ite_self]

/-! ### Overlap (R45) -/

/-- The overlap test is agreement of the offsets modulo the greatest common divisor of the intervals. -/
theorem overlaps_iff_modEq (x y : SlotEntry) :
    overlaps x y = true ↔ x.pos = y.pos ∧ x.offset ≡ y.offset [MOD Nat.gcd x.interval y.interval] := by
  simp [overlaps, Nat.ModEq]

/-- The frames of an entry are those that agree with its offset modulo its interval. -/
theorem SlotEntry.InRange.mod_eq_iff {x : SlotEntry} (h : x.InRange) (n : Nat) :
    n % x.interval = x.offset ↔ n ≡ x.offset [MOD x.interval] := by
  obtain ⟨-, -, -, -, below, -⟩ := h
  rw [Nat.ModEq, Nat.mod_eq_of_lt below]

/-- Settles O24: by the Chinese remainder theorem for intervals that need not be coprime. -/
theorem overlapMeansCommonFrame : Obligations.OverlapMeansCommonFrame := by
  unfold Obligations.OverlapMeansCommonFrame
  intro x y hx hy
  simp only [overlaps_iff_modEq, hx.mod_eq_iff, hy.mod_eq_iff]
  refine and_congr_right fun _ => ⟨?common, ?agree⟩
  case common =>
    intro h
    obtain ⟨n, hn⟩ := Nat.chineseRemainder' h
    exact ⟨n, hn⟩
  case agree =>
    rintro ⟨n, hnx, hny⟩
    exact (hnx.symm.of_dvd (Nat.gcd_dvd_left _ _)).trans (hny.of_dvd (Nat.gcd_dvd_right _ _))

/-! ### The pieces of a context (R88, R89) -/

@[simp] theorem rowOf_val (i : Fin 4) : rowOf i.val = some i := by
  simp [rowOf]

/-- The value under a piece index within the four places. -/
@[simp] theorem Partial.piece?_val (c : Partial) (i : Fin 4) : c.piece? i.val = pick c.pieces i := by
  simp [Partial.piece?]

/-- A value stored under a piece index within the four places. -/
theorem Partial.store_val (c : Partial) (i : Fin 4) (v : Nat) :
    c.store i.val v = { c with pieces := put c.pieces i (some v) } := by
  simp [Partial.store]

/-- A list is mapped to values when each of its members is. -/
theorem mapM_eq_some_iff {α β : Type} (f : α → Option β) (xs : List α) (ys : List β) :
    xs.mapM f = some ys ↔ xs.map f = ys.map some := by
  induction xs generalizing ys with
  | nil => cases ys <;> simp
  | cons x xs ih =>
    rw [List.mapM_cons]
    cases hx : f x with
    | none => cases ys <;> simp [hx]
    | some y =>
      cases ys with
      | nil => cases hm : xs.mapM f <;> simp
      | cons z zs =>
        have rest := ih zs
        cases hm : xs.mapM f with
        | none => simp_all
        | some ws => simp_all

section
variable {c : Partial} {n : Nat}

/-- A context with a piece missing is not complete. -/
theorem Partial.complete?_missing {j : Fin 4} (hj : j.val < n) (hm : pick c.pieces j = none) :
    c.complete? n = none := by
  cases hc : c.complete? n with
  | none => rfl
  | some vs =>
    have mapped := (mapM_eq_some_iff _ _ _).mp hc
    have missing : none ∈ vs.map some := by
      rw [← mapped]
      exact List.mem_map.mpr ⟨j.val, List.mem_range.mpr hj, by rw [c.piece?_val, hm]⟩
    simp at missing

/-- A context with all its pieces is complete. -/
theorem Partial.complete?_all {vs : List Nat} (hn : n ≤ 4) (hl : vs.length = n)
    (hv : ∀ j : Fin 4, j.val < n → pick c.pieces j = vs[j.val]?) : c.complete? n = some vs := by
  refine (mapM_eq_some_iff _ _ _).mpr (List.ext_getElem (by simp [hl]) fun i hi _ => ?_)
  have below : i < n := by simpa using hi
  have value := hv ⟨i, below.trans_le hn⟩ below
  rw [← c.piece?_val] at value
  simpa [hl, below] using value

end

section
variable {p : Piece} {d : ParamDef} {i : Fin 4} {s : State}

/-- The piece of a context begun. -/
theorem addPiece_begun (hi : p.index = i.val) :
    addPiece p none =
      { pieces := put (Vector.replicate 4 none) i (some p.value), width := p.width, cycleCount := p.cycleCount,
        trunk := p.trunk, row := p.row, format := p.format, mark := p.mark } := by
  rw [addPiece, hi, Partial.store_val]

/-- The piece of a context extended. -/
theorem addPiece_extended (hi : p.index = i.val) (c : Partial) :
    addPiece p (some c) = { c with pieces := put c.pieces i (some p.value), mark := c.mark || p.mark } := by
  rw [addPiece, hi, Partial.store_val]

/-- A piece that leaves its context incomplete is kept there. -/
theorem takePiece_incomplete {c : Partial} {o : Option Partial}
    (hd : (s.activeBank p.format).definition? p.number = some d)
    (ho : (if d.pieces = 1 then none else heldContext p.number (s.contextsOf p.format)) = o)
    (hc : addPiece p o = c) (hn : c.complete? d.pieces = none) :
    takePiece p s =
      s.setContexts p.format (replaceContext p.number (some c) (s.contextsOf p.format)) := by
  subst ho hc
  simp only [takePiece, hd, hn]

/-- A piece that completes its context gives the sample, and the context is EMPTY. -/
theorem takePiece_complete {c : Partial} {o : Option Partial} {vs : List Nat}
    (hd : (s.activeBank p.format).definition? p.number = some d)
    (ho : (if d.pieces = 1 then none else heldContext p.number (s.contextsOf p.format)) = o)
    (hc : addPiece p o = c) (hn : c.complete? d.pieces = some vs) :
    takePiece p s =
      takeSample (sampleOf d c p vs)
        (s.setContexts p.format (replaceContext p.number none (s.contextsOf p.format))) := by
  subst ho hc
  simp only [takePiece, hd, hn]

end

/-- Settles O26: the context with the piece stored is complete or not. -/
theorem pieceAssembled : Obligations.PieceAssembled := by
  unfold Obligations.PieceAssembled
  intro p d i s hd hi
  refine ⟨?single, ?begins, ?joins⟩
  case single =>
    rintro hone rfl
    have complete : (addPiece p none).complete? d.pieces = some [p.value] := by
      rw [addPiece_begun hi]
      refine Partial.complete?_all (by omega) hone.symm fun j hj => ?_
      obtain rfl : j = 0 := Fin.ext (Nat.lt_one_iff.mp (hone ▸ hj))
      simp
    rw [takePiece_complete hd (if_pos hone) rfl complete, addPiece_begun hi]
    simp [sampleOf, hone, concatPieces]
  case begins =>
    intro hmin hmax hnone
    have several : d.pieces ≠ 1 := by omega
    have another : ∃ j : Fin 4, j.val < d.pieces ∧ i ≠ j := by
      by_cases h0 : i = 0
      · exact ⟨1, hmin, by simp [h0]⟩
      · exact ⟨0, Nat.zero_lt_of_lt hmin, h0⟩
    obtain ⟨j, hj, hij⟩ := another
    rw [takePiece_incomplete hd ((if_neg several).trans hnone) (addPiece_begun hi)
      (Partial.complete?_missing hj (by rw [pick_put_ne _ _ hij, pick_replicate]))]
  case joins =>
    intro c c' hmin hmax hheld hc'
    have several : d.pieces ≠ 1 := by omega
    have extended : addPiece p (some c) = c' := (addPiece_extended hi c).trans hc'.symm
    constructor
    case left =>
      rintro ⟨j, hj, missing⟩
      exact takePiece_incomplete hd ((if_neg several).trans hheld) extended (Partial.complete?_missing hj missing)
    case right =>
      intro vs hl hv
      rw [takePiece_complete hd ((if_neg several).trans hheld) extended (Partial.complete?_all hmax hl hv), hc']
      rfl

/-! ### One sample taken (R100, R101) -/

/-- The limit machine leaves latest value and sample count. -/
theorem limitStep_noted (p : Nat) (c : LimitClass) (rt : Runtime) :
    (limitStep p c rt).1.latest = rt.latest ∧ (limitStep p c rt).1.samples = rt.samples := by
  unfold limitStep
  split
  case isTrue => exact ⟨rfl, rfl⟩
  case isFalse =>
    dsimp only
    generalize (if rt.candidate = some c then rt.run + 1 else 1) = run
    split <;> exact ⟨rfl, rfl⟩

/-- So does the limit part of a definition. -/
theorem limitPart_noted (d : ParamDef) (x : Sample) (rt : Runtime) :
    (limitPart d x rt).1.latest = rt.latest ∧ (limitPart d x rt).1.samples = rt.samples := by
  unfold limitPart
  split
  case h_1 => exact ⟨rfl, rfl⟩
  case h_2 => exact limitStep_noted _ _ _

/-- The runtime that a replacement leaves for its number, if there was one. -/
theorem find?_replaceRuntime {number : Nat} {e : RuntimeEntry} (rt : Runtime) {es : List RuntimeEntry}
    (h : es.find? (fun e => e.number == number) = some e) :
    ((replaceRuntime number rt es).find? (fun e => e.number == number)).map (fun e => e.runtime) = some rt := by
  induction es with
  | nil => simp at h
  | cons a es ih =>
    by_cases ha : a.number = number
    · simp [replaceRuntime, ha]
    · have later : es.find? (fun e => e.number == number) = some e := by simpa [ha] using h
      simpa [replaceRuntime, ha] using ih later

section
variable {x : Sample} {d : ParamDef} {rt : Runtime} {s : State}

/-- A sample of a defined parameter is evaluated. -/
theorem takeSample_defined (hd : (s.activeBank x.format).definition? x.number = some d)
    (hr : s.runtime? x.format x.number = some rt) : takeSample x s = evaluate d rt x s := by
  simp only [takeSample, hd, hr]

/-- What evaluating a sample leaves of the runtimes. -/
theorem evaluate_runtimesOf (d : ParamDef) (rt : Runtime) (x : Sample) (s : State) (g : Slot) :
    (evaluate d rt x s).runtimesOf g =
      if x.format = g then
        replaceRuntime x.number
          (emitStep d.emission (limitPart d x (noteSample x rt)).2 x.value (limitPart d x (noteSample x rt)).1).1
          (s.runtimesOf x.format)
      else s.runtimesOf g := by
  have posted : ∀ b : Bool, (if b = true then
      postLimit x (noteSample x rt).limit (limitPart d x (noteSample x rt)).1.limit s else s).runtimes =
        s.runtimes := by
    intro b
    split
    case isTrue => exact (postEvent_store _ _ _ _ _).2.2
    case isFalse => rfl
  have placed : ∀ l n r (u : State), (placeSample l n r u).runtimes = u.runtimes := by
    intro l n r u
    obtain ⟨ls, k, e⟩ := placeSample_frame l n r u
    rw [e]
  unfold evaluate
  dsimp only
  rw [State.runtimesOf, apply_ite State.runtimes, placed, ite_self, State.setRuntime, setRuntimes_runtimes, pick_put,
    State.runtimesOf, posted]
  rfl

end

/-- Settles O29: the sample is noted, limited and decided in turn, and only the runtime's place, the links and the
event unit are written. -/
theorem sampleTakenOnce : Obligations.SampleTakenOnce := by
  unfold Obligations.SampleTakenOnce
  intro x d rt s u hd hr hu
  rw [takeSample_defined hd hr] at hu
  have runtimes := evaluate_runtimesOf d rt x s
  rw [← hu] at runtimes
  refine ⟨⟨_, (runtimes x.format).trans (if_pos rfl), ?found, ?latest, ?samples⟩, ?others, ?frame, ?parts⟩
  case found =>
    obtain ⟨e, he, -⟩ := Option.map_eq_some_iff.mp hr
    rw [State.runtime?, runtimes, if_pos rfl]
    exact find?_replaceRuntime _ he
  case latest =>
    obtain ⟨k, y, he⟩ := emitStep_limit d.emission (limitPart d x (noteSample x rt)).2 x.value
      (limitPart d x (noteSample x rt)).1
    rw [he]
    exact (limitPart_noted d x _).1
  case samples =>
    obtain ⟨k, y, he⟩ := emitStep_limit d.emission (limitPart d x (noteSample x rt)).2 x.value
      (limitPart d x (noteSample x rt)).1
    rw [he]
    exact (limitPart_noted d x _).2
  case others =>
    intro g hg
    rw [runtimes, if_neg hg.symm]
  case frame =>
    obtain ⟨rt', ls, n, e⟩ := evaluate_frame d rt x s
    rw [hu, e]
  case parts =>
    intro noted limited decided a b hnoted hnone hsome hdecided ha hb
    have isNoted : noted = noteSample x rt := hnoted
    have isLimited : limited = limitPart d x noted := by
      unfold limitPart
      split
      case h_1 h => exact hnone h
      case h_2 l h => exact hsome l h
    have evaluated : u = if decided.2 then
        placeSample d.link x.number (sampleRecord x limited.2 (d.limits.map (fun _ => limited.1.limit))) b
        else b := by
      rw [hu, hb, ha, hdecided, isLimited, isNoted]
      rfl
    constructor
    case left =>
      intro h
      rw [evaluated, h]
      rfl
    case right =>
      intro h
      rw [evaluated, if_pos h]

end Sys2Proof.Machine
end

section
/-! PROOFS. The words of records (section 11.4): the fields of header and flag words, and a value written most
significant word first and read back; from these the obligation O30. -/

namespace Sys2Proof.Machine

/-! ### Fields of words put together -/

/-- The number that two bit vectors give when put together. -/
theorem toNat_append_eq {n m : Nat} (x : BitVec n) (y : BitVec m) :
    (x ++ y).toNat = x.toNat * 2 ^ m + y.toNat := by
  rw [BitVec.toNat_append, ← Nat.shiftLeft_add_eq_or_of_lt y.isLt, Nat.shiftLeft_eq]

/-- A field of a word as a number. -/
theorem field_eq (w : Word) (lo len : Nat) : field w lo len = w.toNat / 2 ^ lo % 2 ^ len := by
  rw [field, BitVec.extractLsb'_toNat, Nat.shiftRight_eq_div_pow]

/-- The fields of a word of kind, length and code (Table 11-3). -/
theorem recordHeader_fields (kind : BitVec 2) {length low : Nat} (hl : length ≤ 63) (hc : low ≤ 255) :
    field (recordHeader kind length low) 8 6 = length ∧ field (recordHeader kind length low) 14 2 = kind.toNat ∧
      field (recordHeader kind length low) 0 8 = low := by
  have bound := kind.isLt
  have word : (recordHeader kind length low).toNat = (kind.toNat * 64 + length) * 256 + low := by
    rw [recordHeader, toNat_append_eq, toNat_append_eq, BitVec.toNat_ofNat, BitVec.toNat_ofNat]
    omega
  simp only [field_eq, word]
  omega

/-- A bit of a word, by the number of the word. -/
theorem getLsbD_of_toNat {n : Nat} {w : BitVec n} {i : Nat} {b : Bool} (h : w.toNat / 2 ^ i % 2 = b.toNat) :
    w.getLsbD i = b := by
  rw [← BitVec.testBit_toNat, Nat.testBit_eq_decide_div_mod_eq, h]
  cases b <;> rfl

/-! ### Sample records (Table 11-4) -/

/-- The number of the limit state in a sample record, 0 without a limits part. -/
def limitNumber : Option LimitClass → Nat
  | none => 0
  | some c => c.number

theorem limitNumber_le (limit : Option LimitClass) : limitNumber limit ≤ 3 := by
  cases limit with
  | none => exact Nat.zero_le _
  | some c => cases c <;> decide

/-- The first word of a sample record. -/
theorem sampleRecord_flags (x : Sample) (forced : Bool) (limit : Option LimitClass) (hx : x.width ≤ 64) :
    ((sampleRecord x forced limit).headD 0).toNat =
      16384 + (5 + valueWordCount x.width) * 256 + x.mark.toNat * 128 + forced.toNat * 64 +
        limit.isSome.toNat * 32 + limitNumber limit := by
  have few : valueWordCount x.width ≤ 4 := by unfold valueWordCount; omega
  have number := limitNumber_le limit
  cases limit with
  | none =>
    simp only [sampleRecord, limitNumber, List.headD_cons, toNat_append_eq, BitVec.toNat_ofNat, BitVec.toNat_ofBool]
    omega
  | some c =>
    simp only [limitNumber] at number
    simp only [sampleRecord, limitNumber, List.headD_cons, toNat_append_eq, BitVec.toNat_ofNat, BitVec.toNat_ofBool]
    omega

/-- What follows the words of a sample record's head. -/
theorem sampleRecord_drop (x : Sample) (forced : Bool) (limit : Option LimitClass) :
    (sampleRecord x forced limit).drop 5 = valueWords (valueWordCount x.width) x.value := rfl

/-! ### Values in words (R110) -/

@[simp] theorem length_valueWords (n : Nat) (v : Int) : (valueWords n v).length = n := by
  simp [valueWords]

/-- A value in one word more: its higher words, and then its 16 low bits. -/
theorem valueWords_succ (n : Nat) (v : Int) :
    valueWords (n + 1) v = valueWords n (v / 65536) ++ [BitVec.ofInt 16 v] := by
  have high : ∀ i, i < n → v / 2 ^ (16 * (n + 1 - 1 - i)) = v / 65536 / 2 ^ (16 * (n - 1 - i)) := by
    intro i hi
    have more : 16 * (n + 1 - 1 - i) = 16 + 16 * (n - 1 - i) := by omega
    rw [more, pow_add, Int.ediv_ediv_of_nonneg (by norm_num)]
    norm_num
  rw [valueWords, List.range_succ, List.map_append, List.map_singleton, valueWords]
  congr 1
  · refine List.map_congr_left fun i hi => ?_
    rw [high i (List.mem_range.mp hi)]
  · simp

/-- One word more read into a number. -/
def readWord (a : Nat) (w : Word) : Nat := a * 65536 + w.toNat

/-- The words of a value read back give it modulo the power that they can hold. -/
theorem foldl_valueWords (n : Nat) (v : Int) :
    (((valueWords n v).foldl readWord 0 : Nat) : Int) = v % 2 ^ (16 * n) := by
  induction n generalizing v with
  | zero => simp [valueWords]
  | succ n ih =>
    have low : ((BitVec.ofInt 16 v).toNat : Int) = v % 65536 := by
      rw [BitVec.toNat_ofInt]
      omega
    have whole : (2 : Int) ^ (16 * (n + 1)) = 65536 * 2 ^ (16 * n) := by
      rw [Nat.mul_succ, pow_add]
      norm_num [mul_comm]
    rw [valueWords_succ, List.foldl_concat, readWord]
    push_cast
    rw [ih, low, whole, Int.emod_def v (65536 * 2 ^ (16 * n)), Int.emod_def (v / 65536), Int.emod_def v 65536,
      Int.ediv_ediv_of_nonneg (by norm_num)]
    ring

/-- One word more shifted into a bit vector. -/
def shiftWord {m : Nat} (a : BitVec m) (w : Word) : BitVec m := (a <<< 16) ||| w.setWidth m

/-- Words shifted into a bit vector that has room for them give the number that is read. -/
theorem toNat_foldl_shiftWord {m : Nat} (ws : List Word) (hm : 16 * ws.length ≤ m) :
    (ws.foldl shiftWord (0 : BitVec m)).toNat = ws.foldl readWord 0 ∧ ws.foldl readWord 0 < 2 ^ (16 * ws.length) := by
  induction ws using List.reverseRecOn with
  | nil => simp
  | append_singleton ws w ih =>
    rw [List.length_append, List.length_singleton] at hm ⊢
    obtain ⟨value, bound⟩ := ih (by omega)
    have room : 2 ^ (16 * (ws.length + 1)) ≤ 2 ^ m := Nat.pow_le_pow_right Nat.two_pos hm
    have whole : 2 ^ (16 * (ws.length + 1)) = 2 ^ (16 * ws.length) * 65536 := by
      rw [Nat.mul_succ, pow_add]
      norm_num
    have below := w.isLt
    have fits : ws.foldl readWord 0 * 65536 + w.toNat < 2 ^ (16 * (ws.length + 1)) := by
      rw [whole]
      omega
    rw [List.foldl_concat, List.foldl_concat, readWord]
    refine ⟨?_, fits⟩
    have shifted : (ws.foldl readWord 0) <<< 16 < 2 ^ m := by
      rw [Nat.shiftLeft_eq]
      exact (Nat.le_add_right _ w.toNat).trans_lt (fits.trans_le room)
    have narrow : w.toNat < 2 ^ m := (Nat.le_add_left _ _).trans_lt (fits.trans_le room)
    rw [shiftWord, BitVec.toNat_or, BitVec.toNat_shiftLeft, value, Nat.mod_eq_of_lt shifted, BitVec.toNat_setWidth,
      Nat.mod_eq_of_lt narrow, ← Nat.shiftLeft_add_eq_or_of_lt below, Nat.shiftLeft_eq]

/-- A value that its words can hold as a signed number is read back. -/
theorem foldl_valueWords_signed (n : Nat) (v : Int) (hlo : -(2 : Int) ^ (16 * n) ≤ 2 * v)
    (hhi : 2 * v < (2 : Int) ^ (16 * n)) :
    ((valueWords n v).foldl shiftWord (0 : BitVec (16 * n))).toInt = v := by
  obtain ⟨value, -⟩ := toNat_foldl_shiftWord (m := 16 * n) (valueWords n v) (by simp)
  have power : ((2 ^ (16 * n) : Nat) : Int) = 2 ^ (16 * n) := by norm_cast
  rw [BitVec.toInt_eq_toNat_bmod, value, foldl_valueWords, ← power, Int.emod_bmod]
  rw [← power] at hlo hhi
  exact Int.bmod_eq_of_le_mul_two (by omega) (by omega)

/-! ### The obligation -/

/-- Settles O30: the fields of the head words are read from the numbers they make, and a value from its words. -/
theorem recordHeadersGiveLength : Obligations.RecordHeadersGiveLength := by
  unfold Obligations.RecordHeadersGiveLength
  refine ⟨?sample, ?value, ?event, ?reply⟩
  case sample =>
    rintro x forced limit r rfl hmin hmax
    have few : valueWordCount x.width ≤ 4 := by unfold valueWordCount; omega
    have number := limitNumber_le limit
    have flags := sampleRecord_flags x forced limit hmax
    have length : (sampleRecord x forced limit).length = 5 + valueWordCount x.width := by
      simp [sampleRecord, countWords]
      omega
    have mark := x.mark.toNat_lt
    have force := forced.toNat_lt
    have some_limit := limit.isSome.toNat_lt
    refine ⟨length, ?flags, ?source, rfl, rfl, ?place, ?words⟩
    case flags =>
      rintro w rfl
      rw [length]
      refine ⟨?_, ?_, getLsbD_of_toNat ?_, getLsbD_of_toNat ?_, getLsbD_of_toNat ?_, ?_, ?_⟩
      case refine_7 =>
        have low : field ((sampleRecord x forced limit).headD 0) 0 2 = limitNumber limit := by
          rw [field_eq, flags]
          omega
        rw [low]
        cases limit with
        | none => rfl
        | some c => cases c <;> rfl
      all_goals
        simp only [field_eq, flags]
        omega
    case source =>
      rintro w rfl
      have word : ((sampleRecord x forced limit).getD 1 0).toNat =
          x.number % 4096 * 16 + x.trunk.val * 4 + x.row.val := by
        simp only [sampleRecord, List.getD_cons_succ, List.getD_cons_zero, toNat_append_eq, BitVec.toNat_ofNat]
        omega
      simp only [field_eq, word]
      omega
    case place =>
      rintro w rfl
      have word : ((sampleRecord x forced limit).getD 4 0).toNat = x.format.val * 256 + x.frame % 256 := by
        simp only [sampleRecord, countWords, List.getD_cons_succ, List.getD_cons_zero, List.cons_append,
          List.nil_append, toNat_append_eq, BitVec.toNat_ofNat]
        omega
      simp only [field_eq, word]
      omega
    case words =>
      rintro n rfl
      exact sampleRecord_drop x forced limit
  case value =>
    intro n v
    refine ⟨length_valueWords n v, foldl_valueWords_signed n v, ?_⟩
    intro hlo hhi
    have read := foldl_valueWords n v
    rw [Int.emod_eq_of_lt hlo hhi] at read
    exact read
  case event =>
    intro k subject cc details hmin hmax
    have code : k.code ≤ 255 := by cases k <;> decide
    obtain ⟨len, kind, low⟩ := recordHeader_fields 2#2 (length := 4 + details.length) (by omega) code
    refine ⟨?_, len, kind, low, rfl⟩
    simp [eventRecord, countWords]
    omega
  case reply =>
    rintro o status detail last seq body r rfl hbody
    have code : status.number ≤ 255 := by cases status <;> decide
    obtain ⟨len, kind, low⟩ := recordHeader_fields 3#2 (length := 4 + body.length) (by omega) code
    have length : (replyRecord o status detail last seq body).length = 4 + body.length := by
      simp [replyRecord]
      omega
    refine ⟨length, len, kind, low, ?_, rfl⟩
    rintro w rfl
    have final := last.toNat_lt
    have word : ((replyRecord o status detail last seq body).getD 1 0).toNat =
        o.trunk.val * 256 + last.toNat * 128 + seq % 64 := by
      simp only [replyRecord, List.getD_cons_succ, List.getD_cons_zero, toNat_append_eq, BitVec.toNat_ofNat,
        BitVec.toNat_ofBool]
      omega
    refine ⟨?_, ?_, getLsbD_of_toNat ?_, getLsbD_of_toNat ?_, ?_⟩
    all_goals
      simp only [field_eq, word, Bool.toNat_false]
      omega

end Sys2Proof.Machine
end

section
/-! PROOFS. Record links and the event unit: the ready line and credits, the stall timer, records that leave, the
arbiter, and what is placed toward a link; from these the obligations O31 to O36. -/

namespace Sys2Proof.Machine

/-! ### The arbiter and the stall timer (R121, R128) -/

section
variable {lk : LinkTx}

/-- A link that may start a record starts the control lane's first while its burst lasts or no sample waits. -/
theorem LinkTx.start_control (hs : lk.state = .up) (hc : 0 < lk.credits) (hn : lk.sending = none)
    (hw : lk.control ≠ []) (hb : lk.burst < 8 ∨ lk.sample = []) :
    lk.start = { lk with credits := lk.credits - 1, sending := some .control, burst := min 8 (lk.burst + 1) } :=
  (if_pos ⟨hs, hc, hn⟩).trans (if_pos ⟨hw, hb⟩)

/-- It starts the sample lane's first when no control record waits or the burst is used up. -/
theorem LinkTx.start_sample (hs : lk.state = .up) (hc : 0 < lk.credits) (hn : lk.sending = none)
    (hw : lk.sample ≠ []) (hb : lk.control = [] ∨ 8 ≤ lk.burst) :
    lk.start = { lk with credits := lk.credits - 1, sending := some .sample, burst := 0 } := by
  have notControl : ¬ (lk.control ≠ [] ∧ (lk.burst < Config.maxBurst ∨ lk.sample = [])) := by
    rintro ⟨waits, below | empty⟩
    · exact hb.elim waits fun used => Nat.not_lt.mpr used below
    · exact hw empty
  exact (if_pos ⟨hs, hc, hn⟩).trans ((if_neg notControl).trans (if_pos hw))

/-- A link that may start no record is as it was. -/
theorem LinkTx.start_none
    (h : lk.state ≠ .up ∨ lk.credits = 0 ∨ lk.sending ≠ none ∨ (lk.control = [] ∧ lk.sample = [])) :
    lk.start = lk := by
  by_cases free : lk.state = .up ∧ 0 < lk.credits ∧ lk.sending = none
  · obtain ⟨up, credit, idle⟩ := free
    have empty : lk.control = [] ∧ lk.sample = [] := by
      rcases h with down | none | busy | empty
      · exact absurd up down
      · exact absurd none credit.ne'
      · exact absurd idle busy
      · exact empty
    simp [LinkTx.start, empty.1, empty.2]
  · exact if_neg free

/-- A record waits unstarted when there are more records than the one in transmission. -/
theorem LinkTx.unstarted_pos_iff :
    0 < lk.unstarted ↔ (if lk.sending = none then 0 else 1) < lk.control.length + lk.sample.length := by
  unfold LinkTx.unstarted
  omega

end

/-- Settles O34: the two branches of a start, no start, and the timer's condition. -/
theorem arbiterStartsRecords : Obligations.ArbiterStartsRecords := by
  unfold Obligations.ArbiterStartsRecords
  intro lk
  refine ⟨LinkTx.start_control, LinkTx.start_sample, LinkTx.start_none, rfl, ?runs, ?idle⟩
  case runs =>
    rintro ⟨up, empty, waits⟩
    exact if_pos ⟨up, empty, LinkTx.unstarted_pos_iff.mpr waits⟩
  case idle =>
    intro h
    exact if_neg fun ⟨up, empty, waits⟩ => h ⟨up, empty, LinkTx.unstarted_pos_iff.mp waits⟩

/-! ### The ready line and credits (R117 to R119) -/

/-- A STALLED link with empty lanes is UP with one credit and an idle timer after a credit return. -/
theorem LinkTx.credit_stalled {lk : LinkTx} (hs : lk.state = .stalled) (hc : lk.control = []) (hm : lk.sample = []) :
    lk.credit = { lk with state := .up, credits := 1, timer := none } := by
  have unstarted : ({ lk with state := .up, credits := 1 } : LinkTx).start = { lk with state := .up, credits := 1 } :=
    LinkTx.start_none (Or.inr (Or.inr (Or.inr ⟨hc, hm⟩)))
  simp only [LinkTx.credit, hs, LinkTx.settle, unstarted]
  exact if_neg fun h => Nat.one_ne_zero h.2.1

/-- Settles O31: each command by the link's state. -/
theorem readyLineAndCredits : Obligations.ReadyLineAndCredits := by
  unfold Obligations.ReadyLineAndCredits
  refine ⟨?ready, ?credit⟩
  case ready =>
    rintro l s lk rfl
    refine ⟨?up, ?upAlready, ?down, ?downAlready⟩
    case up => exact fun h => congrArg Host.Outcome.next (if_pos h)
    case upAlready => exact fun h => congrArg Host.Outcome.next (if_neg h)
    case down => exact fun h => congrArg Host.Outcome.next (if_neg h)
    case downAlready => exact fun h => congrArg Host.Outcome.next (if_pos h)
  case credit =>
    rintro l s lk rfl
    refine ⟨?up, ?stalled, ?down⟩
    case up =>
      intro h
      have credited : (s.link l).credit =
          ({ s.link l with credits := min 63 ((s.link l).credits + 1), timer := none } : LinkTx).settle := by
        simp only [LinkTx.credit, h, Config.maxCredits]
      exact congrArg (fun x => Host.Outcome.next (s.setLink l x)) credited
    case stalled =>
      intro h hc hm
      exact congrArg (fun x => Host.Outcome.next (s.setLink l x)) (LinkTx.credit_stalled h hc hm)
    case down =>
      intro h
      have ignored : (s.link l).credit = s.link l := by simp only [LinkTx.credit, h]
      have same : s.setLink l (s.link l).credit = s := by rw [ignored, setLink_self]
      exact congrArg Host.Outcome.next same

/-! ### The stall timer (R120, R121) -/

/-- A unit of time counts both timers down. -/
theorem countDown_links (s : State) :
    (s.setLink 0 (s.link 0).countDown).setLink 1 (s.link 1).countDown =
      { s with links := #v[(s.link 0).countDown, (s.link 1).countDown] } := by
  have links : ((s.setLink 0 (s.link 0).countDown).setLink 1 (s.link 1).countDown).links =
      #v[(s.link 0).countDown, (s.link 1).countDown] := by
    refine pick_ext fun i => ?_
    match i with
    | 0 => simp [pick, put]
    | 1 => simp [pick, put]
  rw [← links]
  rfl

/-- A timer has run out at 0. -/
theorem timerOut_iff {s : State} {l : Link} : timerOut s l = true ↔ (s.link l).timer = some 0 := by
  simp [timerOut]

/-- Settles O32: the command at a running or idle timer, and a unit of time by the timers that run out. -/
theorem stallTimerExpires : Obligations.StallTimerExpires := by
  unfold Obligations.StallTimerExpires
  refine ⟨?command, ?unit⟩
  case command =>
    rintro l s lk rfl
    refine ⟨?running, ?idle⟩
    case running => exact fun h => ⟨rfl, if_pos h⟩
    case idle =>
      intro h
      exact congrArg Host.Outcome.next (if_neg (by simp [h]))
  case unit =>
    intro s u hp hu
    have counted : (s.setLink 0 (s.link 0).countDown).setLink 1 (s.link 1).countDown = u := by
      rw [countDown_links, hu]
      rfl
    have draws : s.draws = u.draws := by rw [hu]
    have run : step s = .next (passUnit s) := by simp only [step, hp]
    simp only [run, passUnit, counted, ne_eq, ← timerOut_iff, draws]
    refine ⟨?_, ?_, ?_, ?_⟩
    all_goals
      intro h0 h1
      simp [h0, h1]

/-! ### Records that leave (R129) -/

/-- Settles O33: the record in transmission leaves the head of its lane. -/
theorem recordLeavesItsLane : Obligations.RecordLeavesItsLane := by
  unfold Obligations.RecordLeavesItsLane
  rintro l s lk rfl
  refine ⟨?idle, ?control, ?sample⟩
  case idle =>
    intro h
    refine congrArg Host.Outcome.next ?_
    simp only [recordSent, h]
  case control =>
    intro r rest h hc
    refine congrArg Host.Outcome.next ?_
    simp only [recordSent, LinkTx.sent, h, hc, List.tail_cons]
  case sample =>
    intro r rest h hm
    refine congrArg Host.Outcome.next ?_
    simp only [recordSent, LinkTx.sent, h, hm, List.tail_cons, Config.overrunRearm]

/-! ### What is placed toward a link (R123 to R126, R135, R136) -/

section
variable {lk : LinkTx}

/-- A lane of a link that is UP accepts while it has room. -/
theorem LinkTx.sampleAnswer_accepted (hs : lk.state = .up) (hn : lk.sample.length < 512) :
    lk.sampleAnswer = .accepted := (if_pos hs).trans (if_pos hn)

theorem LinkTx.sampleAnswer_full (hs : lk.state = .up) (hn : 512 ≤ lk.sample.length) :
    lk.sampleAnswer = .full := (if_pos hs).trans (if_neg (Nat.not_lt.mpr hn))

theorem LinkTx.sampleAnswer_notUp (hs : lk.state ≠ .up) : lk.sampleAnswer = .notUp := if_neg hs

theorem LinkTx.controlAnswer_accepted (hs : lk.state = .up) (hn : lk.control.length < 32) :
    lk.controlAnswer = .accepted := (if_pos hs).trans (if_pos hn)

theorem LinkTx.controlAnswer_full (hs : lk.state = .up) (hn : 32 ≤ lk.control.length) :
    lk.controlAnswer = .full := (if_pos hs).trans (if_neg (Nat.not_lt.mpr hn))

theorem LinkTx.controlAnswer_notUp (hs : lk.state ≠ .up) : lk.controlAnswer = .notUp := if_neg hs

end

/-- Settles O35: the lane's answer, and the overrun report at a full lane. -/
theorem sampleRecordPlaced : Obligations.SampleRecordPlaced := by
  unfold Obligations.SampleRecordPlaced
  rintro l number r s lk dropped rfl rfl
  refine ⟨?accepted, ?notUp, ?reported, ?armed⟩
  case accepted =>
    intro hs hn
    simp only [placeSample, LinkTx.sampleAnswer_accepted hs hn]
    rfl
  case notUp =>
    intro hs
    simp only [placeSample, LinkTx.sampleAnswer_notUp hs]
  case reported =>
    intro hs hn ha
    simp only [placeSample, LinkTx.sampleAnswer_full hs hn, ha, Bool.false_eq_true, if_false]
  case armed =>
    intro hs hn ha
    simp only [placeSample, LinkTx.sampleAnswer_full hs hn, if_pos ha]

section
variable {l : Link} {r : Record} {s : State}

/-- An event is accepted at the tail of a control lane with room. -/
theorem placeEvent_accepted (hs : (s.link l).state = .up) (hn : (s.link l).control.length < 32) :
    placeEvent l r s =
      s.setLink l ({ s.link l with control := (s.link l).control ++ [r] } : LinkTx).settle := by
  simp only [placeEvent, LinkTx.controlAnswer_accepted hs hn]
  rfl

/-- An event toward a full lane, or a link that is not UP, is counted lost. -/
theorem placeEvent_lost (h : (s.link l).state ≠ .up ∨ 32 ≤ (s.link l).control.length) :
    placeEvent l r s = s.countLost := by
  by_cases hs : (s.link l).state = .up
  · have full := h.resolve_left (not_not_intro hs)
    simp only [placeEvent, LinkTx.controlAnswer_full hs full]
  · simp only [placeEvent, LinkTx.controlAnswer_notUp hs]

end

/-! ### Reports made once (R137, R138) -/

/-- A set of trunks with `t` taken out does not hold `t`. -/
theorem inTrunks_withoutTrunk (m : BitVec 4) (t : Trunk) : inTrunks (withoutTrunk m t) t = false := by
  simp [inTrunks, withoutTrunk]

/-- What placing an event leaves of the event unit. -/
theorem placeEvent_events (l : Link) (r : Record) (s : State) :
    (placeEvent l r s).events.enabled = s.events.enabled ∧ (placeEvent l r s).events.shedArmed = s.events.shedArmed ∧
      (placeEvent l r s).events.refusalArmed = s.events.refusalArmed := by
  obtain ⟨ls, n, e⟩ := placeEvent_frame l r s
  rw [e]
  exact ⟨rfl, rfl, rfl⟩

section
variable {t : Trunk} {h : Word} {s : State}

/-- A refused frame is reported when the report is enabled and armed. -/
theorem postOrderRefused_armed (he : s.events.enabled.getLsbD 8 = true)
    (ha : s.events.refusalArmed.getLsbD t.val = true) :
    postOrderRefused t h s =
      placeEvent s.events.link (eventRecord .orderRefused (numWord t.val) 0 [h])
        (s.setEvents { s.events with refusalArmed := withoutTrunk s.events.refusalArmed t }) := by
  have armed : (s.events.enables .orderRefused && inTrunks s.events.refusalArmed t) = true :=
    Bool.and_eq_true_iff.mpr ⟨he, ha⟩
  exact if_pos armed

/-- Otherwise it is not. -/
theorem postOrderRefused_silent
    (hn : s.events.enabled.getLsbD 8 = false ∨ s.events.refusalArmed.getLsbD t.val = false) :
    postOrderRefused t h s = s := by
  have silent : (s.events.enables .orderRefused && inTrunks s.events.refusalArmed t) = false :=
    Bool.and_eq_false_iff.mpr hn
  simp [postOrderRefused, silent]

/-- A shed frame is reported when the report is enabled and armed. -/
theorem postOrdersShed_armed (he : s.events.enabled.getLsbD 7 = true) (ha : s.events.shedArmed = true) :
    postOrdersShed t h s =
      placeEvent s.events.link (eventRecord .ordersShed (numWord t.val) 0 [h])
        (s.setEvents { s.events with shedArmed := false }) := by
  have armed : (s.events.enables .ordersShed && s.events.shedArmed) = true := Bool.and_eq_true_iff.mpr ⟨he, ha⟩
  exact if_pos armed

/-- Otherwise it is not. -/
theorem postOrdersShed_silent (hn : s.events.enabled.getLsbD 7 = false ∨ s.events.shedArmed = false) :
    postOrdersShed t h s = s := by
  have silent : (s.events.enables .ordersShed && s.events.shedArmed) = false := Bool.and_eq_false_iff.mpr hn
  simp [postOrdersShed, silent]

end

/-- A second refused frame of a trunk posts nothing more (R138). -/
theorem postOrderRefused_twice (t : Trunk) (h h' : Word) (s : State) :
    postOrderRefused t h' (postOrderRefused t h s) = postOrderRefused t h s := by
  refine postOrderRefused_silent ?_
  by_cases he : s.events.enabled.getLsbD 8 = true
  · by_cases ha : s.events.refusalArmed.getLsbD t.val = true
    · rw [postOrderRefused_armed he ha, (placeEvent_events _ _ _).2.2]
      exact Or.inr (inTrunks_withoutTrunk _ t)
    · rw [postOrderRefused_silent (Or.inr (Bool.not_eq_true _ ▸ ha))]
      exact Or.inr (Bool.not_eq_true _ ▸ ha)
  · rw [postOrderRefused_silent (Or.inl (Bool.not_eq_true _ ▸ he))]
    exact Or.inl (Bool.not_eq_true _ ▸ he)

/-- A second shed frame posts nothing more (R137). -/
theorem postOrdersShed_twice (t t' : Trunk) (h h' : Word) (s : State) :
    postOrdersShed t' h' (postOrdersShed t h s) = postOrdersShed t h s := by
  refine postOrdersShed_silent ?_
  by_cases he : s.events.enabled.getLsbD 7 = true
  · by_cases ha : s.events.shedArmed = true
    · rw [postOrdersShed_armed he ha, (placeEvent_events _ _ _).2.1]
      exact Or.inr rfl
    · rw [postOrdersShed_silent (Or.inr (Bool.not_eq_true _ ▸ ha))]
      exact Or.inr (Bool.not_eq_true _ ▸ ha)
  · rw [postOrdersShed_silent (Or.inl (Bool.not_eq_true _ ▸ he))]
    exact Or.inl (Bool.not_eq_true _ ▸ he)

/-- Settles O36: enabled and armed decide whether there is an event, the lane's answer what becomes of it. -/
theorem eventPlacedLostOrReportedOnce : Obligations.EventPlacedLostOrReportedOnce := by
  unfold Obligations.EventPlacedLostOrReportedOnce
  refine ⟨⟨?posted, ?placed, ?stalled⟩, ?disabled, ?once⟩
  case posted =>
    intro k subject cc details s
    constructor
    case left =>
      intro he
      exact if_neg (by simp [EventUnit.enables, he])
    case right => exact fun he => if_pos he
  case placed => exact fun l r s => ⟨placeEvent_accepted, placeEvent_lost⟩
  case stalled => exact fun samples controls stallTime s he => ⟨if_pos he, if_pos he⟩
  case disabled =>
    intro l samples controls stallTime s he
    have disabled : s.events.enables .linkStalled = false := he
    simp [postLinkStalled, disabled]
  case once =>
    intro t t' h h' s
    exact ⟨postOrderRefused_twice t h h' s, postOrdersShed_twice t t' h h' s, postOrderRefused_armed,
      postOrderRefused_silent, postOrdersShed_silent, postOrdersShed_armed⟩

end Sys2Proof.Machine
end

section
/-! PROOFS. The order unit: handed order frames, reply records placed, discarded or held, room notices, stored replies
and frame checks, and the orders that have no effects; and from these the obligations O37 to O41. -/

namespace Sys2Proof.Machine

/-! ### Taking orders in (R144 to R148) -/

section
variable {s : State}

/-- A busy engine takes no order, and with none queued there is none to take. -/
theorem takeNext_none (h : s.orders.engine ≠ .idle ∨ s.orders.queue = []) : takeNext s = s := by
  unfold takeNext
  split
  case h_1 o rest he hq =>
    rcases h with busy | empty
    · exact absurd he busy
    · rw [empty] at hq
      cases hq
  case h_2 => rfl

variable {q : QueuedOrder} {rest : List QueuedOrder}

/-- The last order taken arms the shed report (R137). -/
theorem takeNext_last (he : s.orders.engine = .idle) (hq : s.orders.queue = [q]) :
    takeNext s =
      (s.setOrders { s.orders with engine := .executing q, queue := [] }).setEvents
        { s.events with shedArmed := true } := by
  simp only [takeNext, he, hq, List.isEmpty_nil, if_true]
  rfl

/-- An order taken before others arms nothing. -/
theorem takeNext_more (he : s.orders.engine = .idle) (hq : s.orders.queue = q :: rest) (hr : rest ≠ []) :
    takeNext s = s.setOrders { s.orders with engine := .executing q, queue := rest } := by
  have more : rest.isEmpty = false := List.isEmpty_eq_false_iff.mpr hr
  simp only [takeNext, he, hq, more, Bool.false_eq_true, if_false]

end

section
variable {o : QueuedOrder} {s : State}

/-- A frame outside the accept set is refused and counted (R144). -/
theorem handOrder_refused (h : inTrunks s.orders.accept o.trunk = false) :
    handOrder o s =
      postOrderRefused o.trunk o.header (s.onCounters o.trunk (fun c => { c with refused := bump c.refused })) := by
  simp [handOrder, h]

/-- A frame whose non-zero tag is queued for its trunk is dropped (R145). -/
theorem handOrder_duplicate (h : inTrunks s.orders.accept o.trunk = true) (ht : o.tag ≠ 0)
    (hq : ∃ q ∈ s.orders.queue, q.trunk = o.trunk ∧ q.tag = o.tag) : handOrder o s = armRefusal o.trunk s := by
  have queued : (o.tag != 0 && (armRefusal o.trunk s).orders.queue.any (sameTag o)) = true := by
    simpa [armRefusal, sameTag, ht] using hq
  exact (if_pos h).trans (if_pos queued)

/-- Any other accepted frame comes to the room test (R146). -/
theorem handOrder_tested (h : inTrunks s.orders.accept o.trunk = true)
    (hq : o.tag = 0 ∨ ∀ q ∈ s.orders.queue, q.trunk = o.trunk → q.tag ≠ o.tag) :
    handOrder o s = roomTest o (armRefusal o.trunk s) := by
  have alone : ¬ (o.tag != 0 && (armRefusal o.trunk s).orders.queue.any (sameTag o)) = true := by
    rcases hq with untagged | others
    · simp [untagged]
    · simpa [armRefusal, sameTag] using fun _ => others
  exact (if_pos h).trans (if_neg alone)

end

/-- Settles O37: what the engine takes, and the accept, duplicate and room tests in turn. -/
theorem handedFrameTested : Obligations.HandedFrameTested := by
  unfold Obligations.HandedFrameTested
  refine ⟨fun s => ⟨takeNext_none, ?takes⟩, ?tests⟩
  case takes =>
    intro q rest u he hq hu
    constructor
    case left =>
      rintro rfl
      rw [takeNext_last he hq, hu]
    case right =>
      intro hr
      rw [takeNext_more he hq hr, hu]
  case tests =>
    rintro o s a x rfl ha
    have armed : a = armRefusal o.trunk s := ha
    have queue : a.orders = s.orders := by rw [ha]; rfl
    refine ⟨handOrder_refused, ?duplicate, ?room⟩
    case duplicate =>
      intro h ht hq
      rw [handOrder_duplicate h ht hq, armed]
    case room =>
      intro h hq
      rw [handOrder_tested h hq, ← armed]
      refine ⟨?shed, ?queued, ?taken⟩
      case shed =>
        intro hn
        have full : ¬ a.orders.queue.length < Config.queueRoom := by rw [queue]; exact Nat.not_lt.mpr hn
        rw [roomTest, if_neg full, armed]
        rfl
      case queued =>
        intro hn he
        have room : a.orders.queue.length < Config.queueRoom := by rw [queue]; exact hn
        rw [roomTest, if_pos room, takeNext_none (Or.inl (by rw [setOrders_orders, queue]; exact he)), queue]
      case taken =>
        intro hn he
        have room : a.orders.queue.length < Config.queueRoom := by rw [queue, hn]; exact Nat.zero_lt_succ 7
        rw [roomTest, if_pos room, takeNext_last (q := o) (by rw [setOrders_orders, queue]; exact he)
          (by rw [setOrders_orders, queue, hn]; rfl), queue]
        simp only [setOrders_orders, setOrders_events, setOrders_setOrders, hn]

/-! ### Replies (R152 to R154) -/

/-- `u` follows from `s` by answering the order `o`: of links only the one it names and there only the control
lane's side, of the event unit the shed report, of the order unit everything but the accept set, of reply memory the
order's own row. -/
structure Answers (o : QueuedOrder) (s u : State) : Prop where
  frame : u = { s with links := u.links, events := u.events, orders := u.orders }
  links : ∀ l, l ≠ o.replyLink → u.link l = s.link l
  sample : (u.link o.replyLink).sample = (s.link o.replyLink).sample
  events : u.events = { s.events with shedArmed := u.events.shedArmed }
  accept : u.orders.accept = s.orders.accept
  memory : ∀ t, t ≠ o.trunk → pick u.orders.memory t = pick s.orders.memory t

theorem Answers.trans {o : QueuedOrder} {s u v : State} (h : Answers o s u) (k : Answers o u v) : Answers o s v where
  frame := by
    have hf := h.frame
    have kf := k.frame
    rw [kf]
    rw [hf]
  links l hl := (k.links l hl).trans (h.links l hl)
  sample := k.sample.trans h.sample
  events := by
    have he := h.events
    have ke := k.events
    rw [ke]
    rw [he]
  accept := k.accept.trans h.accept
  memory t ht := (k.memory t ht).trans (h.memory t ht)

/-- A change of the order unit alone that leaves the accept set and reply memory. -/
theorem Answers.ofOrders {o : QueuedOrder} {s : State} {x : OrderUnit} (ha : x.accept = s.orders.accept)
    (hm : x.memory = s.orders.memory) : Answers o s (s.setOrders x) :=
  ⟨rfl, fun _ _ => rfl, rfl, rfl, ha, fun t _ => congrArg (fun v => pick v t) hm⟩

theorem takeNext_answers (o : QueuedOrder) (s : State) : Answers o s (takeNext s) := by
  obtain ⟨e, q, b, h⟩ := takeNext_frame s
  rw [h]
  exact ⟨rfl, fun _ _ => rfl, rfl, rfl, rfl, fun _ _ => rfl⟩

/-- What reply memory holds after an order is answered: its own row, if it is tagged (R154). -/
def memoryAfter (o : QueuedOrder) (final : Record) (s : State) : Vector (Option MemoryRow) 4 :=
  if o.tag = 0 then s.orders.memory
  else put s.orders.memory o.trunk (some { tag := o.tag, code := o.code, record := final })

/-- The state in which an answered order is dropped and the engine is IDLE (R148, R154). -/
def droppedOrder (o : QueuedOrder) (final : Record) (s : State) : State :=
  s.setOrders { s.orders with memory := memoryAfter o final s, engine := .idle, notice := none }

/-- The end of an order: it is dropped, and the next one taken. -/
theorem finishOrder_eq (o : QueuedOrder) (final : Record) (s : State) :
    finishOrder o final s = takeNext (droppedOrder o final s) := rfl

theorem finishOrder_answers (o : QueuedOrder) (final : Record) (s : State) : Answers o s (finishOrder o final s) := by
  have written : ∀ t, t ≠ o.trunk → pick (memoryAfter o final s) t = pick s.orders.memory t := by
    intro t ht
    unfold memoryAfter
    split
    case isTrue => rfl
    case isFalse => exact pick_put_ne _ _ ht.symm
  have dropped : Answers o s (droppedOrder o final s) := ⟨rfl, fun _ _ => rfl, rfl, rfl, rfl, written⟩
  exact dropped.trans (takeNext_answers o _)

/-- A record accepted at a control lane: the lane is longer; credits, transmission, burst and timer may change. -/
theorem LinkTx.pushControl_frame (lk : LinkTx) (r : Record) :
    ∃ c x b n, lk.pushControl r =
      { lk with control := lk.control ++ [r], credits := c, sending := x, burst := b, timer := n } :=
  LinkTx.settle_frame { lk with control := lk.control ++ [r] }

theorem pushReply_answers (o : QueuedOrder) (r : Record) (s : State) :
    Answers o s (s.setLink o.replyLink ((s.link o.replyLink).pushControl r)) := by
  refine ⟨rfl, fun l hl => setLink_link_ne _ _ _ _ hl.symm, ?_, rfl, rfl, fun _ _ => rfl⟩
  obtain ⟨c, x, b, n, e⟩ := (s.link o.replyLink).pushControl_frame r
  rw [setLink_link_same, e]

/-- Placing reply records answers the order. -/
theorem placeReplies_answers (o : QueuedOrder) (final : Record) (later rs : List Record) :
    ∀ s, Answers o s (placeReplies o final later rs s) := by
  induction rs with
  | nil =>
    intro s
    cases later with
    | nil => exact finishOrder_answers o final s
    | cons next rest => exact Answers.ofOrders rfl rfl
  | cons r rest ih =>
    intro s
    unfold placeReplies
    split
    case h_1 => exact (pushReply_answers o r s).trans (ih _)
    case h_2 => exact ih s
    case h_3 => exact Answers.ofOrders rfl rfl

section
variable {o : QueuedOrder} {final r : Record} {later rest : List Record} {s : State}

/-- A record stands at the tail of a lane with room. -/
theorem placeReplies_accepted (hs : (s.link o.replyLink).state = .up)
    (hn : (s.link o.replyLink).control.length < 32) :
    placeReplies o final later (r :: rest) s =
      placeReplies o final later rest (s.setLink o.replyLink ((s.link o.replyLink).pushControl r)) := by
  simp only [placeReplies, LinkTx.controlAnswer_accepted hs hn]

/-- A record toward a link that is not UP is discarded. -/
theorem placeReplies_discarded (hs : (s.link o.replyLink).state ≠ .up) :
    placeReplies o final later (r :: rest) s = placeReplies o final later rest s := by
  simp only [placeReplies, LinkTx.controlAnswer_notUp hs]

/-- A record toward a full lane is held (R153). -/
theorem placeReplies_held (hs : (s.link o.replyLink).state = .up)
    (hn : 32 ≤ (s.link o.replyLink).control.length) :
    placeReplies o final later (r :: rest) s =
      s.setOrders { s.orders with engine := .replying o r (rest ++ later), notice := none } := by
  simp only [placeReplies, LinkTx.controlAnswer_full hs hn]

end

/-- A reply with room for all its records: they stand at the tail of the lane, and the order ends. -/
theorem placeReplies_all (o : QueuedOrder) (final : Record) (rs : List Record) :
    ∀ s : State, (s.link o.replyLink).state = .up → (s.link o.replyLink).control.length + rs.length ≤ 32 →
      ∃ v : State, placeReplies o final [] rs s = finishOrder o final v ∧ v.orders = s.orders ∧
        (v.link o.replyLink).control = (s.link o.replyLink).control ++ rs := by
  induction rs with
  | nil => exact fun s _ _ => ⟨s, rfl, rfl, (List.append_nil _).symm⟩
  | cons r rest ih =>
    intro s hs hn
    rw [List.length_cons] at hn
    obtain ⟨c, x, b, n, e⟩ := (s.link o.replyLink).pushControl_frame r
    have pushed : (s.setLink o.replyLink ((s.link o.replyLink).pushControl r)).link o.replyLink =
        (s.link o.replyLink).pushControl r := setLink_link_same _ _ _
    obtain ⟨v, hv, orders, control⟩ := ih (s.setLink o.replyLink ((s.link o.replyLink).pushControl r))
      (by rw [pushed, e]; exact hs) (by rw [pushed, e]; simp only [List.length_append, List.length_singleton]; omega)
    refine ⟨v, (placeReplies_accepted hs (by omega)).trans hv, orders, ?_⟩
    rw [control, pushed, e]
    simp

/-- The records of a reply, one for each body, numbered in order, the last one flagged (R152). -/
theorem getElem?_replyRecordsFrom (o : QueuedOrder) (status : Status) (detail : Word) (bodies : List (List Word)) :
    ∀ seq i, (replyRecordsFrom o status detail seq bodies)[i]? =
      bodies[i]?.map (fun body => replyRecord o status detail (decide (i + 1 = bodies.length)) (seq + i) body) := by
  induction bodies with
  | nil => simp [replyRecordsFrom]
  | cons body rest ih =>
    intro seq i
    cases i with
    | zero => cases rest <;> simp [replyRecordsFrom]
    | succ i =>
      have place : seq + 1 + i = seq + (i + 1) := by omega
      simp [replyRecordsFrom, ih, place]

@[simp] theorem length_replyRecords (o : QueuedOrder) (reply : Reply) :
    (replyRecords o reply).length = reply.bodies.length := by
  have all : ∀ bodies seq, (replyRecordsFrom o reply.status reply.detail seq bodies).length = bodies.length := by
    intro bodies
    induction bodies with
    | nil => exact fun _ => rfl
    | cons body rest ih => exact fun seq => congrArg Nat.succ (ih _)
  exact all _ _

section
variable {o : QueuedOrder} {final : Record} {s : State}

/-- After an order ends with none queued the engine is IDLE. -/
theorem finishOrder_empty (hq : s.orders.queue = []) :
    (finishOrder o final s).orders.engine = .idle ∧ (finishOrder o final s).orders.queue = [] := by
  rw [finishOrder_eq, takeNext_none (s := droppedOrder o final s) (Or.inr hq)]
  exact ⟨rfl, hq⟩

/-- After an order ends with others queued the engine has taken the next. -/
theorem finishOrder_next {q : QueuedOrder} {rest : List QueuedOrder} (hq : s.orders.queue = q :: rest) :
    (finishOrder o final s).orders.engine = .executing q ∧ (finishOrder o final s).orders.queue = rest := by
  rw [finishOrder_eq]
  cases rest with
  | nil =>
    rw [takeNext_last (s := droppedOrder o final s) rfl hq]
    exact ⟨rfl, rfl⟩
  | cons p ps =>
    rw [takeNext_more (s := droppedOrder o final s) rfl hq (by simp)]
    exact ⟨rfl, rfl⟩

/-- Reply memory after an order ends. -/
theorem finishOrder_memory : (finishOrder o final s).orders.memory = memoryAfter o final s := by
  rw [finishOrder_eq]
  obtain ⟨e, q, b, h⟩ := takeNext_frame (droppedOrder o final s)
  rw [h]
  rfl

theorem finishOrder_links : (finishOrder o final s).links = s.links := by
  obtain ⟨e, q, n, m, b, h⟩ := finishOrder_frame o final s
  rw [h]

end

/-- Settles O38: what placing records writes, a reply with room for all of them, and the three answers of a lane. -/
theorem repliesPlacedDiscardedOrHeld : Obligations.RepliesPlacedDiscardedOrHeld := by
  unfold Obligations.RepliesPlacedDiscardedOrHeld
  refine ⟨?answers, ?room, ?records, ?places⟩
  case answers =>
    intro o reply n s u hu
    have answers : Answers o s u := by
      rcases hu with hu | hu <;> rw [hu] <;> exact placeReplies_answers _ _ _ _ _
    exact ⟨answers.frame, answers.links, answers.sample, answers.events, answers.accept, answers.memory⟩
  case room =>
    intro o reply s u final hs hn hfinal hu
    obtain ⟨v, placed, orders, control⟩ := placeReplies_all o final (replyRecords o reply) s hs
      (by rw [length_replyRecords]; exact hn)
    have answered : u = finishOrder o final v := by
      rw [hu, ← placed, answer, sendRecords, hfinal]
      rfl
    have links : u.link o.replyLink = v.link o.replyLink := by
      rw [answered, State.link, finishOrder_links]
      rfl
    have memory : u.orders.memory = memoryAfter o final v := by rw [answered, finishOrder_memory]
    refine ⟨by rw [links, control], ?numbered, ?tagged, ?untagged, ?idle, ?next⟩
    case numbered =>
      intro i body hi
      rw [replyRecords, getElem?_replyRecordsFrom, hi, Nat.zero_add]
      rfl
    case tagged =>
      intro ht
      rw [memory, memoryAfter, if_neg ht, pick_put_same]
    case untagged =>
      intro ht
      rw [memory, memoryAfter, if_pos ht, orders]
    case idle =>
      intro hq
      rw [answered]
      exact finishOrder_empty (by rw [orders, hq])
    case next =>
      intro q rest hq
      rw [answered]
      exact finishOrder_next (by rw [orders, hq])
  case records => exact fun o reply n s => ⟨rfl, rfl⟩
  case places =>
    intro o final r rest later s
    exact ⟨placeReplies_accepted, placeReplies_discarded, placeReplies_held, rfl, rfl⟩

/-! ### Room notices (R126, R153) -/

section
variable {n : Nat} {o : QueuedOrder} {held : Record} {rest : List Record} {s : State}

/-- What the engine does with the notice that a record has departed. -/
theorem takeNotice_departed (he : s.orders.engine = .replying o held rest) (hn : s.orders.notice = some .departed) :
    takeNotice n s =
      placeReplies o ((held :: rest).getLast?.getD []) (rest.drop n) (held :: rest.take n)
        (s.setOrders { s.orders with notice := none }) := by
  simp only [takeNotice, he, hn]

/-- What it does with the notice that the link has left UP. -/
theorem takeNotice_leftUp (he : s.orders.engine = .replying o held rest) (hn : s.orders.notice = some .leftUp) :
    takeNotice n s =
      placeReplies o ((held :: rest).getLast?.getD []) (rest.drop n) (rest.take n)
        (s.setOrders { s.orders with notice := none }) := by
  simp only [takeNotice, he, hn]

/-- A link gives a notice to an engine that waits on it and has none. -/
theorem giveNotice_replying (he : s.orders.engine = .replying o held rest) (l : Link) (k : RoomNotice) :
    giveNotice l k s =
      if o.replyLink = l ∧ s.orders.notice = none then s.setOrders { s.orders with notice := some k } else s := by
  simp only [giveNotice, he]

end

/-- Settles O39: by the notice, and the lane's answer to the held record. -/
theorem roomNoticeTaken : Obligations.RoomNoticeTaken := by
  unfold Obligations.RoomNoticeTaken
  rintro n o held final rest s u he rfl rfl
  refine ⟨?full, ?room, ?gone, ?given⟩
  case full =>
    intro hn hs hf
    refine congrArg Host.Outcome.next ?_
    rw [takeNotice_departed he hn,
      placeReplies_held (s := s.setOrders { s.orders with notice := none }) hs hf, List.take_append_drop, ← he]
    rfl
  case room =>
    intro hn hs hf
    refine congrArg Host.Outcome.next ?_
    rw [takeNotice_departed he hn, placeReplies_accepted (s := s.setOrders { s.orders with notice := none }) hs hf]
    rfl
  case gone =>
    rintro (hn | ⟨hn, hs⟩)
    · exact congrArg Host.Outcome.next (takeNotice_leftUp he hn)
    · refine congrArg Host.Outcome.next ?_
      rw [takeNotice_departed he hn, placeReplies_discarded (s := s.setOrders { s.orders with notice := none }) hs]
  case given =>
    intro k
    refine ⟨?first, ?later, ?elsewhere⟩
    case first =>
      intro hn
      rw [giveNotice_replying he, if_pos ⟨rfl, hn⟩]
    case later =>
      intro hn
      rw [giveNotice_replying he, if_neg fun h => hn h.2]
    case elsewhere =>
      intro l hl
      rw [giveNotice_replying he, if_neg fun h => hl h.1.symm]

end Sys2Proof.Machine
end

section
/-! PROOFS. How every order begins: a stored reply, the frame checks, and then its own part; the codes and body counts
of Table 10-1; ECHO and the unknown order; and from these the obligations O40 and O41. -/

namespace Sys2Proof.Machine

/-! ### Stored replies (R149) -/

section
variable {o : QueuedOrder} {s : State}

/-- A state-changing order whose trunk's row holds its tag and code is answered by the stored record. -/
theorem storedReply_some {m : MemoryRow} (ht : o.tag ≠ 0) (hc : readOnlyCode o.code = false)
    (hm : pick s.orders.memory o.trunk = some m) (htag : m.tag = o.tag) (hcode : m.code = o.code) :
    storedReply o s = some m.record := by
  simp [storedReply, ht, hc, hm, htag, hcode]

/-- An untracked or read-only order, or one whose trunk's row is empty, is answered by none. -/
theorem storedReply_none (h : o.tag = 0 ∨ readOnlyCode o.code = true ∨ pick s.orders.memory o.trunk = none) :
    storedReply o s = none := by
  unfold storedReply
  split
  case isTrue kept =>
    rcases h with untagged | readOnly | empty
    · exact absurd untagged kept.1
    · rw [readOnly] at kept
      exact absurd kept.2 (by decide)
    · rw [empty]
  case isFalse => rfl

/-- A row of another tag or code answers none. -/
theorem storedReply_other {m : MemoryRow} (hm : pick s.orders.memory o.trunk = some m)
    (h : m.tag ≠ o.tag ∨ m.code ≠ o.code) : storedReply o s = none := by
  unfold storedReply
  split
  case isTrue =>
    rw [hm]
    exact if_neg fun same => h.elim (· same.1) (· same.2)
  case isFalse => rfl

end

/-! ### Frame checks (R150) -/

section
variable {o : QueuedOrder}

/-- A reserved bit is one of bits 14 to 8 of the control word. -/
theorem reservedSet_iff : o.reservedSet = true ↔ o.control.extractLsb' 8 7 ≠ 0 := by
  rw [QueuedOrder.reservedSet, field, bne_iff_ne, ← BitVec.toNat_ne_iff_ne]
  rfl

/-- A reserved bit fails the frame with detail 0FFFFH. -/
theorem frameFailure_reserved (h : o.control.extractLsb' 8 7 ≠ 0) :
    frameFailure o = some { status := .badArgument, detail := 0xFFFF, bodies := [[]] } :=
  if_pos (reservedSet_iff.mpr h)

/-- A body count that is not permitted fails it with the count. -/
theorem frameFailure_count (h : o.control.extractLsb' 8 7 = 0) (hp : permittedCount o.code o.bodyCount = false) :
    frameFailure o = some { status := .badLength, detail := numWord o.bodyCount, bodies := [[]] } := by
  have unreserved : ¬ o.reservedSet = true := fun hr => reservedSet_iff.mp hr h
  have refused : ¬ permittedCount o.code o.bodyCount = true := by rw [hp]; exact nofun
  exact (if_neg unreserved).trans (if_neg refused)

end

/-! ### Beginning an order (R148 to R150) -/

section
variable {code : Nat} {act : QueuedOrder → State → State} {o : QueuedOrder} {s : State}

/-- A stored reply is placed in the order's stead. -/
theorem takeUp_stored {record : Record} (he : s.orders.engine = .executing o) (hc : o.code = code)
    (hs : storedReply o s = some record) : takeUp code act s = sendRecords o [record] s := by
  simp only [takeUp, he, if_pos hc, hs]

/-- An order that fails its frame checks is answered so. -/
theorem takeUp_failed {reply : Reply} (he : s.orders.engine = .executing o) (hc : o.code = code)
    (hs : storedReply o s = none) (hf : frameFailure o = some reply) : takeUp code act s = answer o reply s := by
  simp only [takeUp, he, if_pos hc, hs, hf]

end

/-- The command `c` begins the order in execution as an order of code `code`. -/
def Begins (code : Nat) (c : Instr) : Prop :=
  ∀ (o : QueuedOrder) (s : State), s.orders.engine = .executing o →
    ∃ act, exec c s = .next (takeUp code act s)

theorem begins_carryOut {code : Nat} {c : Instr} (perform : QueuedOrder → State → State × Reply)
    (h : ∀ s, exec c s = .next (carryOut code perform s)) : Begins code c :=
  fun _ s _ => ⟨fun o u => answer o (perform o u).2 (perform o u).1.draw, h s⟩

theorem begins_carryOutUpTo {n code : Nat} {c : Instr} (perform : QueuedOrder → State → State × Reply)
    (h : ∀ s, exec c s = .next (carryOutUpTo n code perform s)) : Begins code c := by
  intro o s he
  have run : carryOutUpTo n code perform s = carryOutBy (answerUpTo n) code perform s := by
    simp only [carryOutUpTo, he]
  exact ⟨_, (h s).trans (congrArg Host.Outcome.next run)⟩

theorem begins_carryOutSettling {n code : Nat} {c : Instr} {cause : SwitchCause}
    (check : QueuedOrder → State → Except Reply (List Slot)) (finish : QueuedOrder → State → State × Reply)
    (h : ∀ s, exec c s = .next (carryOutSettling n code cause check finish s)) : Begins code c := by
  intro o s he
  have run : ∃ act, carryOutSettling n code cause check finish s = takeUp code act s := by
    simp only [carryOutSettling, he]
    exact ⟨_, rfl⟩
  obtain ⟨act, ha⟩ := run
  exact ⟨act, (h s).trans (congrArg Host.Outcome.next ha)⟩

theorem begins_restart (n : Nat) (bits : Vector Nat 4) : Begins 0x3F (.restart n bits) := by
  intro o s he
  have run : restartOrder n bits s = takeUp 0x3F (fun o u => runRestart o bits n restartSteps u) s := by
    simp only [restartOrder, he]
  exact ⟨_, congrArg Host.Outcome.next run⟩

/-- Every order command begins the order of its code. -/
theorem begins_of_mem {n k code : Nat} {bits : Vector Nat 4} {c : Instr}
    (h : (code, c) ∈
      [(0x00, Instr.echo), (0x01, Instr.setTrunk n k), (0x02, Instr.bindSource), (0x03, Instr.unbindSource k),
       (0x10, Instr.stageHeader), (0x11, Instr.stageSlots), (0x12, Instr.stageParams),
       (0x13, Instr.discardStage), (0x14, Instr.commit), (0x15, Instr.cancelCommit),
       (0x20, Instr.tuneParam), (0x21, Instr.readParam), (0x22, Instr.readBank n), (0x23, Instr.readStatus n),
       (0x24, Instr.clearCounters), (0x30, Instr.setOrderAccept), (0x31, Instr.setEvents),
       (0x3F, Instr.restart n bits)]) : Begins code c := by
  simp only [List.mem_cons, Prod.mk.injEq, List.not_mem_nil, or_false] at h
  rcases h with ⟨rfl, rfl⟩ | ⟨rfl, rfl⟩ | ⟨rfl, rfl⟩ | ⟨rfl, rfl⟩ | ⟨rfl, rfl⟩ | ⟨rfl, rfl⟩ | ⟨rfl, rfl⟩ | ⟨rfl, rfl⟩ |
    ⟨rfl, rfl⟩ | ⟨rfl, rfl⟩ | ⟨rfl, rfl⟩ | ⟨rfl, rfl⟩ | ⟨rfl, rfl⟩ | ⟨rfl, rfl⟩ | ⟨rfl, rfl⟩ | ⟨rfl, rfl⟩ | ⟨rfl, rfl⟩ |
    ⟨rfl, rfl⟩
  · exact begins_carryOut _ fun _ => rfl
  · exact begins_carryOutSettling _ _ fun _ => rfl
  · exact begins_carryOut _ fun _ => rfl
  · exact begins_carryOutSettling _ _ fun _ => rfl
  · exact begins_carryOut _ fun _ => rfl
  · exact begins_carryOut _ fun _ => rfl
  · exact begins_carryOut _ fun _ => rfl
  · exact begins_carryOut _ fun _ => rfl
  · exact begins_carryOut _ fun _ => rfl
  · exact begins_carryOut _ fun _ => rfl
  · exact begins_carryOut _ fun _ => rfl
  · exact begins_carryOut _ fun _ => rfl
  · exact begins_carryOutUpTo _ fun _ => rfl
  · exact begins_carryOutUpTo _ fun _ => rfl
  · exact begins_carryOut _ fun _ => rfl
  · exact begins_carryOut _ fun _ => rfl
  · exact begins_carryOut _ fun _ => rfl
  · exact begins_restart n bits

/-! ### Body counts (Table 10-1) -/

/-- STAGE_SLOTS takes the format and up to 60 entries of three words. -/
theorem permittedCount_slots (c : Nat) : permittedCount 0x11 c = true ↔ ∃ k : Nat, k ≤ 60 ∧ c = 1 + 3 * k := by
  have read : permittedCount 0x11 c = true ↔ c % 3 = 1 ∧ c ≤ 181 := by simp [permittedCount]
  rw [read]
  constructor
  case mp => exact fun h => ⟨c / 3, by omega, by omega⟩
  case mpr =>
    rintro ⟨k, hk, rfl⟩
    omega

/-- STAGE_PARAMS takes the format and up to 20 definitions of six words. -/
theorem permittedCount_params (c : Nat) : permittedCount 0x12 c = true ↔ ∃ k : Nat, k ≤ 20 ∧ c = 1 + 6 * k := by
  have read : permittedCount 0x12 c = true ↔ c % 6 = 1 ∧ c ≤ 121 := by simp [permittedCount]
  rw [read]
  constructor
  case mp => exact fun h => ⟨c / 6, by omega, by omega⟩
  case mpr =>
    rintro ⟨k, hk, rfl⟩
    omega

/-- The other orders take one count each. -/
theorem permittedCount_single {code count : Nat}
    (h : (code, count) ∈
      [(0x01, 12), (0x02, 4), (0x03, 2), (0x10, 7), (0x13, 1), (0x14, 1), (0x15, 1), (0x20, 6), (0x21, 1),
       (0x22, 5), (0x23, 2), (0x24, 2), (0x30, 1), (0x31, 4), (0x3F, 0)]) (c : Nat) :
    permittedCount code c = true ↔ c = count := by
  simp only [List.mem_cons, Prod.mk.injEq, List.not_mem_nil, or_false] at h
  rcases h with ⟨rfl, rfl⟩ | ⟨rfl, rfl⟩ | ⟨rfl, rfl⟩ | ⟨rfl, rfl⟩ | ⟨rfl, rfl⟩ | ⟨rfl, rfl⟩ | ⟨rfl, rfl⟩ | ⟨rfl, rfl⟩ |
    ⟨rfl, rfl⟩ | ⟨rfl, rfl⟩ | ⟨rfl, rfl⟩ | ⟨rfl, rfl⟩ | ⟨rfl, rfl⟩ | ⟨rfl, rfl⟩ | ⟨rfl, rfl⟩
  all_goals simp [permittedCount]

/-- Settles O40: every order command begins its order, and beginning replays, refuses, or goes on. -/
theorem orderReplayedOrFrameChecked : Obligations.OrderReplayedOrFrameChecked := by
  unfold Obligations.OrderReplayedOrFrameChecked
  refine ⟨?replayed, ?checked, ?stored, fun code => by simp [knownCode], fun c => by simp [permittedCount],
    permittedCount_slots, permittedCount_params, fun _ _ => permittedCount_single⟩
  case replayed =>
    intro n k code bits c o m s hmem he hc ht hm htag hcode
    have kind : Begins code c ∧ readOnlyCode code = false := by
      simp only [List.mem_cons, Prod.mk.injEq, List.not_mem_nil, or_false] at hmem
      rcases hmem with ⟨rfl, rfl⟩ | ⟨rfl, rfl⟩ | ⟨rfl, rfl⟩ | ⟨rfl, rfl⟩ | ⟨rfl, rfl⟩ | ⟨rfl, rfl⟩ | ⟨rfl, rfl⟩ |
        ⟨rfl, rfl⟩ | ⟨rfl, rfl⟩ | ⟨rfl, rfl⟩ | ⟨rfl, rfl⟩ | ⟨rfl, rfl⟩ | ⟨rfl, rfl⟩ | ⟨rfl, rfl⟩
      all_goals exact ⟨begins_of_mem (n := n) (k := k) (bits := bits) (by simp), by decide⟩
    obtain ⟨begins, changing⟩ := kind
    obtain ⟨act, run⟩ := begins o s he
    rw [run, takeUp_stored he hc (storedReply_some ht (hc ▸ changing) hm htag hcode)]
    rfl
  case checked =>
    intro n k code bits c o s hmem he hc hs
    obtain ⟨act, run⟩ := begins_of_mem hmem o s he
    constructor
    case left =>
      intro hr
      rw [run, takeUp_failed he hc hs (frameFailure_reserved hr)]
    case right =>
      intro hr hp
      rw [run, takeUp_failed he hc hs (frameFailure_count hr (by rw [hc, hp]))]
  case stored =>
    intro o s
    constructor
    case left =>
      intro h
      exact storedReply_none (h.imp_right (Or.imp_left (by simp [readOnlyCode])))
    case right => exact fun m => storedReply_other

/-- Settles O41: ECHO is carried out without effects, and a code that names no order is answered at once. -/
theorem echoAndUnknownOrderAnswered : Obligations.EchoAndUnknownOrderAnswered := by
  unfold Obligations.EchoAndUnknownOrderAnswered
  intro o s
  constructor
  case left =>
    intro h
    exact congrArg Host.Outcome.next (carryOut_carries h)
  case right =>
    intro he hk
    refine congrArg Host.Outcome.next ?_
    simp only [unknownOrder, he, hk, Bool.false_eq_true, if_false]
    rfl

end Sys2Proof.Machine
end

section
/-! PROOFS. The orders on counters, on the order channel and the event settings, and RESTART: their ranges, their
effects and the order of their steps; and from these the obligations O50, O51 and O52. -/

namespace Sys2Proof.Machine

/-! ### Index words -/

@[simp] theorem trunkOf_val (t : Trunk) : trunkOf t.val = some t := by
  simp [trunkOf]

@[simp] theorem slotOf_val (f : Slot) : slotOf f.val = some f := by
  simp [slotOf]

@[simp] theorem linkOf_val (l : Link) : linkOf l.val = some l := dif_pos l.isLt

theorem trunkOf_eq_none {n : Nat} (h : 4 ≤ n) : trunkOf n = none := dif_neg (Nat.not_lt.mpr h)

theorem rowOf_eq_none {n : Nat} (h : 4 ≤ n) : rowOf n = none := dif_neg (Nat.not_lt.mpr h)

theorem slotOf_eq_none {n : Nat} (h : 8 ≤ n) : slotOf n = none := dif_neg (Nat.not_lt.mpr h)

theorem linkOf_eq_none {n : Nat} (h : 2 ≤ n) : linkOf n = none := dif_neg (Nat.not_lt.mpr h)

/-! ### Scopes (R169) -/

/-- A scope word out of range. -/
theorem scopeOf_badScope {scope : Nat} (index : Nat) (h : 4 ≤ scope) : scopeOf scope index = .error 0 := by
  unfold scopeOf
  rw [if_neg (by omega), if_neg (by omega), if_neg (by omega), if_neg (by omega)]

/-- An index word out of its scope's range. -/
theorem scopeOf_badIndex {scope index : Nat}
    (h : (scope = 0 ∧ 1 ≤ index) ∨ (scope = 1 ∧ 4 ≤ index) ∨ (scope = 2 ∧ 2 ≤ index) ∨ (scope = 3 ∧ 8 ≤ index)) :
    scopeOf scope index = .error 1 := by
  rcases h with ⟨rfl, hi⟩ | ⟨rfl, hi⟩ | ⟨rfl, hi⟩ | ⟨rfl, hi⟩
  · simp [scopeOf, Nat.one_le_iff_ne_zero.mp hi]
  · simp [scopeOf, trunkOf_eq_none hi]
  · simp [scopeOf, linkOf_eq_none hi]
  · simp [scopeOf, slotOf_eq_none hi]

@[simp] theorem scopeOf_part : scopeOf 0 0 = .ok .part := rfl

@[simp] theorem scopeOf_trunk (t : Trunk) : scopeOf 1 t.val = .ok (.trunk t) := by
  simp [scopeOf]

@[simp] theorem scopeOf_link (l : Link) : scopeOf 2 l.val = .ok (.link l) := by
  simp [scopeOf]

@[simp] theorem scopeOf_format (f : Slot) : scopeOf 3 f.val = .ok (.format f) := by
  simp [scopeOf]

/-! ### CLEAR_COUNTERS (R171) -/

section
variable {o : QueuedOrder} {s : State}

/-- A scope or an index out of range refuses the order. -/
theorem exec_clearCounters_error {i : Nat} (h : s.Carries 0x24 o) (hs : scopeOf (o.arg 0) (o.arg 1) = .error i) :
    exec .clearCounters s =
      .next (answer o { status := .badArgument, detail := numWord i, bodies := [[]] } s.draw) := by
  have performed : clearCountersOrder o s = (s, Reply.one .badArgument (numWord i) []) := by
    simp only [clearCountersOrder, hs]
  have run := carryOut_carries (perform := clearCountersOrder) h
  rw [performed] at run
  exact congrArg Host.Outcome.next run

/-- A scope in range is cleared. -/
theorem exec_clearCounters_ok {sc : Scope} {n : Nat} (h : s.Carries 0x24 o)
    (hs : scopeOf (o.arg 0) (o.arg 1) = .ok sc) (hn : o.arg 0 = n) :
    exec .clearCounters s =
      .next (answer o { status := .ok, detail := numWord n, bodies := [[]] } (clearScope s sc).draw) := by
  have performed : clearCountersOrder o s = (clearScope s sc, Reply.one .ok (numWord n) []) := by
    rw [← hn]
    simp only [clearCountersOrder, hs]
  have run := carryOut_carries (perform := clearCountersOrder) h
  rw [performed] at run
  exact congrArg Host.Outcome.next run

end

/-- Settles O50: the scope decides, and clearing a trunk's leaves all but its counters. -/
theorem countersCleared : Obligations.CountersCleared := by
  unfold Obligations.CountersCleared
  intro o s u h
  refine ⟨?scope, ?index, ?part, ?trunk, ?link, ?format⟩
  case scope => exact fun h0 => exec_clearCounters_error h (scopeOf_badScope _ h0)
  case index => exact fun hi => exec_clearCounters_error h (scopeOf_badIndex hi)
  case part =>
    intro h0 h1 hu
    rw [hu]
    exact exec_clearCounters_ok h (by rw [h0, h1]; exact scopeOf_part) h0
  case trunk =>
    intro t h0 h1 hu
    refine ⟨?answered, ?receiver, ?rows, ?waiting, ?others, ?frame⟩
    case answered =>
      rw [hu]
      exact exec_clearCounters_ok h (by rw [h0, h1]; exact scopeOf_trunk t) h0
    case receiver =>
      rw [hu, clearScope, setTracker_receiver, State.onCounters, setReceiver_receiver_same]
      rfl
    case rows =>
      intro r
      rw [hu, clearScope, State.row, setTracker_tracker_same, Tracker.cleared, pick_map]
      rfl
    case waiting =>
      rw [hu, clearScope, setTracker_tracker_same]
      rfl
    case others =>
      intro t' ht
      rw [hu, clearScope, setTracker_receiver, setTracker_tracker_ne _ _ _ _ ht.symm, State.onCounters,
        setReceiver_receiver_ne _ _ _ _ ht.symm]
      exact ⟨rfl, rfl⟩
    case frame =>
      rw [hu]
      rfl
  case link =>
    intro l h0 h1 hu
    rw [hu]
    exact exec_clearCounters_ok h (by rw [h0, h1]; exact scopeOf_link l) h0
  case format =>
    intro f h0 h1 hu
    rw [hu]
    exact exec_clearCounters_ok h (by rw [h0, h1]; exact scopeOf_format f) h0

/-! ### Ranges of body words -/

/-- The first word out of range is the first whose check fails. -/
theorem rangeFailure_cons (i : Nat) (ok : Bool) (rs : List (Nat × Bool)) :
    rangeFailure ((i, ok) :: rs) = if ok then rangeFailure rs else some i := by
  cases ok <;> rfl

@[simp] theorem rangeFailure_nil : rangeFailure [] = none := rfl

theorem within_iff {n lo hi : Nat} : within n lo hi = true ↔ lo ≤ n ∧ n ≤ hi := by
  simp [within]

/-- The bits of a word from bit `lo` on are 0 below 2^lo. -/
theorem field_high_eq_zero_iff {w : Word} {lo len : Nat} (h : lo + len = 16) :
    field w lo len = 0 ↔ w.toNat < 2 ^ lo := by
  have bound : w.toNat < 2 ^ lo * 2 ^ len := by
    rw [← pow_add, h]
    exact w.isLt
  have below : w.toNat / 2 ^ lo < 2 ^ len := Nat.div_lt_of_lt_mul bound
  rw [field_eq, Nat.mod_eq_of_lt below, Nat.div_eq_zero_iff]
  simp

/-! ### SET_ORDER_ACCEPT and SET_EVENTS (R172, R173) -/

section
variable {o : QueuedOrder} {s : State}

/-- Whether the arriving trunk is in the set that SET_ORDER_ACCEPT carries. -/
theorem inTrunks_setWidth (w : Word) (t : Trunk) : inTrunks (w.setWidth 4) t = w.getLsbD t.val := by
  simp [inTrunks]

/-- A set of four bits is reported as it came. -/
theorem setWidth_setWidth_of_lt {w : Word} (h : w.toNat < 16) : ((w.setWidth 4 : BitVec 4).setWidth 16 : Word) = w := by
  apply BitVec.eq_of_toNat_eq
  rw [BitVec.toNat_setWidth, BitVec.toNat_setWidth]
  omega

/-- What SET_ORDER_ACCEPT answers, by what its own part gives. -/
theorem exec_setOrderAccept (h : s.Carries 0x30 o) {u : State} {reply : Reply}
    (hp : setOrderAcceptOrder o s = (u, reply)) :
    exec .setOrderAccept s = .next (answer o reply u.draw) := by
  have run := carryOut_carries (perform := setOrderAcceptOrder) h
  rw [hp] at run
  exact congrArg Host.Outcome.next run

/-- What SET_EVENTS answers to a word out of range. -/
theorem exec_setEvents_error (h : s.Carries 0x31 o) {i : Nat} (hr : rangeFailure (setEventsRanges o) = some i) :
    exec .setEvents s =
      .next (answer o { status := .badArgument, detail := numWord i, bodies := [[]] } s.draw) := by
  have performed : setEventsOrder o s = (s, Reply.one .badArgument (numWord i) []) := by
    simp only [setEventsOrder, hr]
  have run := carryOut_carries (perform := setEventsOrder) h
  rw [performed] at run
  exact congrArg Host.Outcome.next run

/-- The words of SET_EVENTS in their ranges. -/
theorem setEventsRanges_eq (o : QueuedOrder) :
    setEventsRanges o =
      [ (0, decide (o.arg 0 < 2)), (1, decide (o.arg 1 < 512)), (2, decide (1 ≤ o.arg 2 ∧ o.arg 2 ≤ 255)),
        (3, decide (1 ≤ o.arg 3 ∧ o.arg 3 ≤ 255)) ] := by
  have link : within (o.arg 0) 0 1 = decide (o.arg 0 < 2) := by
    rw [Bool.eq_iff_iff, within_iff, decide_eq_true_iff]
    omega
  have kinds : (field (o.word 1) 9 7 == 0) = decide (o.arg 1 < 512) := by
    rw [Bool.eq_iff_iff, beq_iff_eq, decide_eq_true_iff, field_high_eq_zero_iff (by norm_num)]
    rfl
  have times : ∀ n, within n 1 255 = decide (1 ≤ n ∧ n ≤ 255) := fun n => by
    rw [Bool.eq_iff_iff, within_iff, decide_eq_true_iff]
  rw [setEventsRanges, link, kinds, times, times]

/-- Both stall times set (R120). -/
theorem applySetEvents_eq (l : Link) (o : QueuedOrder) (s : State) :
    applySetEvents l o s =
      { s with
        events := { s.events with link := l, enabled := (o.word 1).setWidth 9 },
        links := #v[{ s.link 0 with stallTime := o.arg 2 }, { s.link 1 with stallTime := o.arg 3 }] } := by
  have links : (applySetEvents l o s).links =
      #v[{ s.link 0 with stallTime := o.arg 2 }, { s.link 1 with stallTime := o.arg 3 }] := by
    refine pick_ext fun i => ?_
    match i with
    | 0 => simp [applySetEvents, pick, put, LinkTx.withStallTime]
    | 1 => simp [applySetEvents, pick, put, LinkTx.withStallTime]
  rw [← links]
  rfl

end

/-- Settles O51: the words' ranges in order, and the settings written. -/
theorem channelSettingsReplaced : Obligations.ChannelSettingsReplaced := by
  unfold Obligations.ChannelSettingsReplaced
  constructor
  case left =>
    intro o s h
    have reserved : field (o.word 0) 4 12 = 0 ↔ o.arg 0 < 16 := field_high_eq_zero_iff (by norm_num)
    refine ⟨?range, ?isolates, ?replaced⟩
    case range =>
      intro h0
      have bad : field (o.word 0) 4 12 ≠ 0 := fun hz => absurd (reserved.mp hz) (Nat.not_lt.mpr h0)
      exact exec_setOrderAccept h (if_pos bad)
    case isolates =>
      intro h0 hb
      have good : ¬ field (o.word 0) 4 12 ≠ 0 := not_not_intro (reserved.mpr h0)
      exact exec_setOrderAccept h ((if_neg good).trans (if_pos (by rw [inTrunks_setWidth, hb])))
    case replaced =>
      intro h0 hb
      have good : ¬ field (o.word 0) 4 12 ≠ 0 := not_not_intro (reserved.mpr h0)
      have kept : ¬ inTrunks ((o.word 0).setWidth 4) o.trunk = false := by rw [inTrunks_setWidth, hb]; exact nofun
      have performed : setOrderAcceptOrder o s =
          (s.setOrders { s.orders with accept := (o.word 0).setWidth 4 },
            Reply.one .ok (numWord o.trunk.val) [((o.word 0).setWidth 4 : BitVec 4).setWidth 16]) :=
        (if_neg good).trans (if_neg kept)
      rw [exec_setOrderAccept h performed, setWidth_setWidth_of_lt h0]
      rfl
  case right =>
    intro o s h
    have ranges : rangeFailure (setEventsRanges o) =
        if o.arg 0 < 2 then
          if o.arg 1 < 512 then
            if 1 ≤ o.arg 2 ∧ o.arg 2 ≤ 255 then if 1 ≤ o.arg 3 ∧ o.arg 3 ≤ 255 then none else some 3 else some 2
          else some 1
        else some 0 := by
      simp only [setEventsRanges_eq, rangeFailure_cons, rangeFailure_nil, decide_eq_true_eq]
    refine ⟨?replaced, ?link, ?kinds, ?first, ?second⟩
    case replaced =>
      intro l h0 h1 h2 h2' h3 h3'
      have inRange : rangeFailure (setEventsRanges o) = none := by
        rw [ranges, if_pos (h0 ▸ l.isLt), if_pos h1, if_pos ⟨h2, h2'⟩, if_pos ⟨h3, h3'⟩]
      have performed : setEventsOrder o s = (applySetEvents l o s, Reply.one .ok 0 []) := by
        simp only [setEventsOrder, inRange, h0, linkOf_val]
      have run := carryOut_carries (perform := setEventsOrder) h
      rw [performed, applySetEvents_eq] at run
      exact congrArg Host.Outcome.next run
    case link =>
      intro h0
      exact exec_setEvents_error h (by rw [ranges, if_neg (by omega)])
    case kinds =>
      intro h0 h1
      exact exec_setEvents_error h (by rw [ranges, if_pos h0, if_neg (by omega)])
    case first =>
      intro h0 h1 h2
      exact exec_setEvents_error h (by rw [ranges, if_pos h0, if_pos h1, if_neg (by omega)])
    case second =>
      intro h0 h1 h2 h2' h3
      exact exec_setEvents_error h (by rw [ranges, if_pos h0, if_pos h1, if_pos ⟨h2, h2'⟩, if_neg (by omega)])

/-! ### RESTART (R174) -/

section
variable (o : QueuedOrder) (bits : Vector Nat 4)

/-- Fewer steps than are left: they are made, and the engine holds the others. -/
theorem runRestart_part (left : List RestartStep) :
    ∀ (n : Nat) (s : State), n < left.length →
      runRestart o bits n left s =
        ((left.take n).foldl (restartStep bits) s).setEngine (.restarting o (left.drop n)) := by
  induction left with
  | nil => exact fun n s h => absurd h (Nat.not_lt_zero n)
  | cons x rest ih =>
    intro n s h
    cases n with
    | zero => rfl
    | succ n =>
      cases rest with
      | nil => simp at h
      | cons y ys => exact ih n (restartStep bits s x) (Nat.lt_of_succ_lt_succ h)

/-- As many steps as are left: they are made, and the order is answered. -/
theorem runRestart_all (left : List RestartStep) :
    ∀ (n : Nat) (s : State), left.length ≤ n →
      runRestart o bits n left s = answer o (Reply.one .ok 0 []) (left.foldl (restartStep bits) s) := by
  induction left with
  | nil =>
    intro n s _
    cases n <;> rfl
  | cons x rest ih =>
    intro n s h
    cases n with
    | zero => simp at h
    | succ n =>
      cases rest with
      | nil => rfl
      | cons y ys => exact ih n (restartStep bits s x) (Nat.le_of_succ_le_succ h)

variable {o bits}

/-- RESTART begun makes its first steps. -/
theorem restartOrder_begun {s : State} (h : s.Carries 0x3F o) (n : Nat) :
    restartOrder n bits s = runRestart o bits n restartSteps s := by
  have engine : s.orders.engine = .executing o := h.1
  simp only [restartOrder, engine]
  exact takeUp_carries (act := fun o u => runRestart o bits n restartSteps u) h

/-- RESTART in part goes on with the steps left. -/
theorem restartOrder_left {s : State} {left : List RestartStep} (h : s.orders.engine = .restarting o left) (n : Nat) :
    restartOrder n bits s = runRestart o bits n left s := by
  simp only [restartOrder, h]

end

/-- The last steps of RESTART: links, lost events and rows. -/
theorem restartSteps_last (bits : Vector Nat 4) (b : State) :
    ([.link 0, .link 1, .rows, .reply] : List RestartStep).foldl (restartStep bits) b =
      { (b.setLink 0 (b.link 0).restart).setLink 1 (b.link 1).restart with
        events := { b.events with lost := 0 },
        trackers := b.trackers.map (Tracker.restarted b) } := by
  have unlike : ¬ (0 : Link) = 1 := by decide
  simp only [List.foldl_cons, List.foldl_nil, restartStep, if_neg unlike, if_true]
  rw [setLink_link_ne b 0 _ 1 unlike]
  rfl

/-- The steps of RESTART, block by block. -/
theorem restartSteps_foldl (bits : Vector Nat 4) (s : State) :
    restartSteps.foldl (restartStep bits) s =
      ([.link 0, .link 1, .rows, .reply] : List RestartStep).foldl (restartStep bits)
        (restartRuntimes
          ([0, 1, 2, 3].foldl (fun x t => reinitTrunk t (x.receiver t).profile (pick bits t) x)
            (restartSwitches s))) := by
  have blocks : restartSteps =
      .switchControl :: (([0, 1, 2, 3] : List Trunk).map .trunk ++
        .evaluation :: [.link 0, .link 1, .rows, .reply]) := rfl
  rw [blocks, List.foldl_cons, List.foldl_append, List.foldl_map, List.foldl_cons]
  simp only [restartStep]

/-- The switch control's step, format slot by format slot. -/
theorem restartSwitches_eq (s : State) :
    restartSwitches s =
      slotList.foldl (fun u f => if (s.boundRow f).isSome then settleFormat .order u f else u) s := by
  rw [restartSwitches, List.foldl_filter]

/-- Settles O52: the steps in their order, all of them or the first ones, and what each makes of its block. -/
theorem restartStepsInOrder : Obligations.RestartStepsInOrder := by
  unfold Obligations.RestartStepsInOrder
  refine ⟨?steps, restartSwitches_eq, fun _ => rfl, fun _ => rfl, ?rows⟩
  case steps =>
    intro o bits s
    constructor
    case left =>
      intro h
      constructor
      case left =>
        intro a b c u ha hb hc hu
        have made : u = restartSteps.foldl (restartStep bits) s := by
          rw [restartSteps_foldl, restartRuntimes, ← ha, ← hb, restartSteps_last, hu, hc]
          rfl
        have run := runRestart_all o bits restartSteps 10 s (Nat.le_refl 10)
        rw [← restartOrder_begun h, ← made] at run
        exact congrArg Host.Outcome.next run
      case right =>
        intro n hn
        exact congrArg Host.Outcome.next ((restartOrder_begun h n).trans (runRestart_part o bits restartSteps n s hn))
    case right =>
      intro left h _
      constructor
      case left =>
        intro n hn
        exact congrArg Host.Outcome.next ((restartOrder_left h n).trans (runRestart_part o bits left n s hn))
      case right =>
        intro n hn
        exact congrArg Host.Outcome.next ((restartOrder_left h n).trans (runRestart_all o bits left n s hn))
  case rows =>
    intro s x
    refine ⟨rfl, fun r => ?_⟩
    rw [Tracker.restarted, pick_map]
    rfl

end Sys2Proof.Machine
end

section
/-! PROOFS. COMMIT and CANCEL_COMMIT, and the refusals of staging orders. -/

namespace Sys2Proof.Machine

/-- An order of one record, by what its own part gives. -/
theorem carryOut_eq {code : Nat} {perform : QueuedOrder → State → State × Reply} {o : QueuedOrder} {s u : State}
    {reply : Reply} (h : s.Carries code o) (hp : perform o s = (u, reply)) :
    carryOut code perform s = answer o reply u.draw := by
  rw [carryOut_carries h, hp]

/-! ### COMMIT and CANCEL_COMMIT (R63 to R68) -/

section
variable {o : QueuedOrder} {s u : State} {reply : Reply} {f : Slot}

theorem exec_commit (h : s.Carries 0x14 o) (hp : commitOrder o s = (u, reply)) :
    exec .commit s = .next (answer o reply u.draw) :=
  congrArg Host.Outcome.next (carryOut_eq h hp)

theorem exec_cancelCommit (h : s.Carries 0x15 o) (hp : cancelCommitOrder o s = (u, reply)) :
    exec .cancelCommit s = .next (answer o reply u.draw) :=
  congrArg Host.Outcome.next (carryOut_eq h hp)

/-- COMMIT of a format slot that exists. -/
theorem commitOrder_slot (h0 : o.arg 0 = f.val) : commitOrder o s = commitFormat f s := by
  simp only [commitOrder, h0, slotOf_val]

/-- CANCEL_COMMIT of a format slot that exists. -/
theorem cancelCommitOrder_slot (h0 : o.arg 0 = f.val) :
    cancelCommitOrder o s =
      if (s.format f).standby = .armed then
        (s.setFormat f { s.format f with standby := .staging }, Reply.one .ok (standbyLetter f s) [])
      else (s, Reply.one .notStaged (standbyLetter f s) []) := by
  simp only [cancelCommitOrder, h0, slotOf_val]

end

/-- Settles O46: by the standby's state, and for a STAGING one by its checks and its row. -/
theorem commitCarriedOut : Obligations.CommitCarriedOut := by
  unfold Obligations.CommitCarriedOut
  constructor
  case left =>
    intro o s h0
    exact ⟨fun h => exec_commit h (by simp only [commitOrder, slotOf_eq_none h0]; rfl),
      fun h => exec_cancelCommit h (by simp only [cancelCommitOrder, slotOf_eq_none h0]; rfl)⟩
  case right =>
    intro o s f letter h0 hletter
    rw [hletter]
    refine ⟨fun h => ⟨?armed, ?unstaged, ?failed, ?passed⟩, fun h => ⟨?cancelled, ?kept⟩⟩
    case armed =>
      intro hs
      exact exec_commit h (by simp only [commitOrder_slot h0, commitFormat, hs]; rfl)
    case unstaged =>
      rintro (hs | hs)
      · exact exec_commit h (by simp only [commitOrder_slot h0, commitFormat, hs]; rfl)
      · exact exec_commit h (by simp only [commitOrder_slot h0, commitFormat, hs]; rfl)
    case failed =>
      intro x hs hx
      exact exec_commit h (by simp only [commitOrder_slot h0, commitFormat, hs, hx]; rfl)
    case passed =>
      intro hs hx
      have applied : commitOrder o s = applyCommit f s := by
        simp only [commitOrder_slot h0, commitFormat, hs, hx]
      exact ⟨fun hl => exec_commit h (applied.trans (if_pos hl)),
        fun hl => exec_commit h (applied.trans (if_neg (by rw [hl]; exact nofun)))⟩
    case cancelled =>
      intro hs
      exact exec_cancelCommit h ((cancelCommitOrder_slot h0).trans (if_pos hs))
    case kept =>
      intro hs
      exact exec_cancelCommit h ((cancelCommitOrder_slot h0).trans (if_neg hs))

/-! ### A standby emptied (R48, R52, R58) -/

section
variable (f : Slot) (st : Standby) (s : State)

/-- A standby emptied: its format slot. -/
@[simp] theorem emptyStandby_format_same :
    (emptyStandby f st s).format f = (s.format f).withStandby Bank.empty st := by
  simp only [emptyStandby, setFree_format, setFormat_format_same]

/-- A standby emptied leaves the other format slots. -/
theorem emptyStandby_format_ne {g : Slot} (h : g ≠ f) : (emptyStandby f st s).format g = s.format g := by
  simp only [emptyStandby, setFree_format, setFormat_format_ne _ _ _ _ h.symm]

@[simp] theorem emptyStandby_freeSlots :
    (emptyStandby f st s).freeSlots = s.freeSlots + (s.format f).standbyBank.slots.length := rfl

@[simp] theorem emptyStandby_freeParams :
    (emptyStandby f st s).freeParams = s.freeParams + (s.format f).standbyBank.params.length := rfl

/-- A standby emptied changes the format slots and the free counts of the pool only. -/
theorem emptyStandby_frame :
    emptyStandby f st s =
      { s with
        formats := (emptyStandby f st s).formats, freeSlots := (emptyStandby f st s).freeSlots,
        freeParams := (emptyStandby f st s).freeParams } := rfl

end

section
variable (x : FormatSlot) (b : Bank) (st : Standby)

/-- Another standby bank keeps the active letter. -/
@[simp] theorem FormatSlot.withStandby_active : (x.withStandby b st).active = x.active := by
  cases h : x.active <;> simp [withStandby, setBank, BankId.other, h]

@[simp] theorem FormatSlot.withStandby_standby : (x.withStandby b st).standby = st := rfl

/-- Another standby bank keeps the probation. -/
@[simp] theorem FormatSlot.withStandby_probation : (x.withStandby b st).probation = x.probation := by
  cases h : x.active <;> simp [withStandby, setBank, BankId.other, h]

end

/-! ### Staging orders: their refusals, and DISCARD_STAGE (R51, R58) -/

section
variable {o : QueuedOrder} {s u : State} {f : Slot}

/-- A staging order of no format slot. -/
theorem stagingOrder_none (content : Slot → State → State × Status × Word) (h0 : slotOf (o.arg 0) = none) :
    stagingOrder content o s = (s, badFormatStaging s) := by
  simp only [stagingOrder, h0]

/-- A staging order whose standby is pending. -/
theorem stagingOrder_pending (content : Slot → State → State × Status × Word) (h0 : o.arg 0 = f.val)
    (hp : (s.format f).isPending = true) :
    stagingOrder content o s = (s, Reply.one .pending (standbyLetter f s) (stagingBody f s)) := by
  simp only [stagingOrder, h0, slotOf_val, hp, if_true]

/-- A staging order that opens its standby. -/
theorem stagingOrder_open {content : Slot → State → State × Status × Word} {status : Status} {detail : Word}
    (h0 : o.arg 0 = f.val) (hp : (s.format f).isPending = false)
    (hc : content f (openStaging f s) = (u, status, detail)) :
    stagingOrder content o s = (u, Reply.one status detail (stagingBody f u)) := by
  simp only [stagingOrder, h0, slotOf_val, hp, Bool.false_eq_true, if_false, hc]

/-- DISCARD_STAGE of no format slot. -/
theorem discardStageOrder_none (h0 : slotOf (o.arg 0) = none) : discardStageOrder o s = (s, badFormatStaging s) := by
  simp only [discardStageOrder, h0]

/-- DISCARD_STAGE of a format slot that exists. -/
theorem discardStageOrder_slot (h0 : o.arg 0 = f.val) : discardStageOrder o s = discardStage f s := by
  simp only [discardStageOrder, h0, slotOf_val]

theorem exec_discardStage {reply : Reply} (h : s.Carries 0x13 o) (hp : discardStageOrder o s = (u, reply)) :
    exec .discardStage s = .next (answer o reply u.draw) :=
  congrArg Host.Outcome.next (carryOut_eq h hp)

/-- A standby that refuses staging orders. -/
theorem FormatSlot.isPending_of {x : FormatSlot}
    (h : x.standby = .armed ∨ (x.standby = .fallback ∧ x.probation.isSome = true)) : x.isPending = true := by
  simpa [isPending] using h

/-- The orders on a standby bank refuse a format that does not exist, and a pending standby. -/
theorem staging_refuses {code : Nat} {c : Instr}
    (hc : (code, c) ∈
      [(0x10, Instr.stageHeader), (0x11, Instr.stageSlots), (0x12, Instr.stageParams), (0x13, Instr.discardStage)]) :
    ∃ perform : QueuedOrder → State → State × Reply,
      exec c s = .next (carryOut code perform s) ∧
      (slotOf (o.arg 0) = none → perform o s = (s, badFormatStaging s)) ∧
      ∀ f : Slot, o.arg 0 = f.val → (s.format f).isPending = true →
        perform o s = (s, Reply.one .pending (standbyLetter f s) (stagingBody f s)) := by
  simp only [List.mem_cons, Prod.mk.injEq, List.not_mem_nil, or_false] at hc
  obtain ⟨rfl, rfl⟩ | ⟨rfl, rfl⟩ | ⟨rfl, rfl⟩ | ⟨rfl, rfl⟩ := hc
  · exact ⟨fun o => stagingOrder (placeHeader (headerOf o)) o, rfl, stagingOrder_none _,
      fun _ => stagingOrder_pending _⟩
  · exact ⟨fun o => stagingOrder (placeSlots (slotItems o.body.tail)) o, rfl, stagingOrder_none _,
      fun _ => stagingOrder_pending _⟩
  · exact ⟨fun o => stagingOrder (placeParams (paramItems o.body.tail)) o, rfl, stagingOrder_none _,
      fun _ => stagingOrder_pending _⟩
  · exact ⟨discardStageOrder, rfl, discardStageOrder_none,
      fun _ h0 hp => (discardStageOrder_slot h0).trans (if_pos hp)⟩

end

/-- Settles O45: the refusals every order on a standby bank shares, and the standby that DISCARD_STAGE empties. -/
theorem stagingRefusedOrDiscarded : Obligations.StagingRefusedOrDiscarded := by
  unfold Obligations.StagingRefusedOrDiscarded
  constructor
  case left =>
    intro code c o s hc h
    obtain ⟨perform, run, none, pending⟩ := staging_refuses (o := o) (s := s) hc
    constructor
    case left =>
      intro h0
      rw [run, carryOut_eq h (none (slotOf_eq_none h0))]
      rfl
    case right =>
      intro f h0 hs
      rw [run, carryOut_eq h (pending f h0 (FormatSlot.isPending_of hs))]
      rfl
  case right =>
    intro o s f b h h0 hb
    constructor
    case left =>
      intro hs
      have idle : ¬ (s.format f).isPending = true := by
        rcases hs with hs | ⟨hs, hn⟩
        · simp [FormatSlot.isPending, hs]
        · simp [FormatSlot.isPending, hs, hn]
      have held : ¬ (s.format f).standby = .empty := by
        rcases hs with hs | ⟨hs, -⟩ <;> rw [hs] <;> exact nofun
      have performed : discardStageOrder o s =
          (emptyStandby f .empty s,
            Reply.one .ok (standbyLetter f (emptyStandby f .empty s)) (stagingBody f (emptyStandby f .empty s))) := by
        rw [discardStageOrder_slot h0, discardStage, if_neg idle, if_neg held]
      refine ⟨emptyStandby f .empty s, ?_, ?_, ?_, ?_, ?_, ?_, ?_, ?_, ?_, emptyStandby_frame f .empty s⟩
      · rw [exec_discardStage h performed, standbyLetter, stagingBody, emptyStandby_format_same,
          FormatSlot.withStandby_standbyBank, FormatSlot.withStandby_active, emptyStandby_freeSlots,
          emptyStandby_freeParams, hb]
        rfl
      · rw [emptyStandby_freeSlots, hb]
      · rw [emptyStandby_freeParams, hb]
      · rw [emptyStandby_format_same, FormatSlot.withStandby_standby]
      · rw [emptyStandby_format_same, FormatSlot.withStandby_standbyBank]
        rfl
      · rw [emptyStandby_format_same, FormatSlot.withStandby_activeBank]
      · rw [emptyStandby_format_same, FormatSlot.withStandby_active]
      · rw [emptyStandby_format_same, FormatSlot.withStandby_probation]
      · exact fun g hg => emptyStandby_format_ne f .empty s hg
    case right =>
      intro hs
      have idle : ¬ (s.format f).isPending = true := by simp [FormatSlot.isPending, hs]
      have performed : discardStageOrder o s = (s, Reply.one .ok (standbyLetter f s) (stagingBody f s)) := by
        rw [discardStageOrder_slot h0, discardStage, if_neg idle, if_pos hs]
      exact exec_discardStage h performed

end Sys2Proof.Machine
end

section
/-! PROOFS. The words of staged entries as the part reads them, and lists of them placed one by one. -/

namespace Sys2Proof.Machine

/-- A field is 0 when its bits are. -/
theorem field_eq_zero_iff {w : Word} {lo len : Nat} : field w lo len = 0 ↔ w.extractLsb' lo len = 0 := by
  rw [field, BitVec.toNat_eq]
  rfl

/-- The first item of a list that fails. -/
theorem firstFailing_cons {α : Type} (ok : α → Bool) (i : Nat) (x : α) (xs : List α) :
    firstFailing ok i (x :: xs) = if ok x then firstFailing ok (i + 1) xs else some i := rfl

/-! ### Headers (R42, R53) -/

/-- The fields of a header in their ranges. -/
theorem headerFailure_eq (h : Header) :
    headerFailure h = rangeFailure
      [ (0, decide (1 ≤ h.length ∧ h.length ≤ 256)),
        (1, decide ((h.length ≠ 1 → 1 ≤ h.idPos) ∧ h.idPos ≤ 1024)), (2, decide (h.idBase ≤ 1)),
        (3, decide (1 ≤ h.verify ∧ h.verify ≤ 8)), (4, decide (1 ≤ h.missLimit ∧ h.missLimit ≤ 8)),
        (5, decide (h.probation ≤ 15)) ] := by
  have range : ∀ n lo hi : Nat, within n lo hi = decide (lo ≤ n ∧ n ≤ hi) := fun n lo hi => by
    rw [Bool.eq_iff_iff, within_iff, decide_eq_true_iff]
  have position : ((if h.length = 1 then 0 else 1) ≤ h.idPos) = (h.length ≠ 1 → 1 ≤ h.idPos) := by
    by_cases one : h.length = 1 <;> simp [one]
  simp only [headerFailure, firstFailing_cons, rangeFailure_cons, rangeFailure_nil, id, range, position,
    Nat.zero_le, true_and]
  rfl

/-! ### Slot entries (R43) -/

/-- A slot entry read from three words. -/
theorem slotEntryOf_eq_some_iff {w0 w1 w2 : Word} {e : SlotEntry} :
    slotEntryOf w0 w1 w2 = some e ↔
      w0.extractLsb' 11 5 = 0 ∧ w2.extractLsb' 12 2 = 0 ∧ 1 ≤ e.pos ∧ e.pos ≤ 1024 ∧ e.offset < e.interval ∧
      e = { pos := field w0 0 11, interval := field w1 8 8 + 1, offset := field w1 0 8, param := field w2 0 12,
            piece := field w2 14 2 } := by
  simp only [slotEntryOf, Option.ite_none_right_eq_some, Bool.and_eq_true, beq_iff_eq, within_iff,
    decide_eq_true_eq, field_eq_zero_iff, Option.some.injEq]
  constructor
  · rintro ⟨⟨⟨⟨h0, hlo, hhi⟩, ho⟩, h2⟩, rfl⟩
    exact ⟨h0, h2, hlo, hhi, ho, rfl⟩
  · rintro ⟨h0, h2, hlo, hhi, ho, rfl⟩
    exact ⟨⟨⟨⟨h0, hlo, hhi⟩, ho⟩, h2⟩, rfl⟩

/-! ### Parameter definitions (R46, R55, R80) -/

/-- The emission mode and argument that words 1 and 2 hold. -/
def emissionRead (w1 w2 : Word) : Emission :=
  if field w1 8 2 = 0 then .every else if field w1 8 2 = 1 then .nth w2.toNat else .change w2.toNat

/-- The limits part that words 1 and 3 to 5 hold. -/
def limitsRead (signed : Bool) (w1 w3 w4 w5 : Word) : Option Limits :=
  if w1.getLsbD 13 then
    some { lo := loOf signed w3 w4, hi := hiOf signed w4 w5, persistence := field w1 0 8 }
  else none

/-- The emission fields: the mode and the reserved bits, then the argument. -/
theorem emissionOf_eq (w1 w2 : Word) :
    emissionOf w1 w2 =
      if w1.extractLsb' 10 3 = 0 ∧ field w1 8 2 ≤ 2 then
        if field w1 8 2 = 1 → 2 ≤ w2.toNat ∧ w2.toNat ≤ 255 then .ok (emissionRead w1 w2) else .error 1
      else .error 0 := by
  simp only [emissionOf, emissionRead, bne_iff_ne, ne_eq, beq_iff_eq, within_iff, ← field_eq_zero_iff]
  by_cases reserved : field w1 10 3 = 0
  case neg => simp only [reserved, not_false_eq_true, if_true, false_and, if_false]
  case pos =>
    have range : field w1 8 2 < 4 := field_lt w1 8 2
    match hm : field w1 8 2 with
    | 0 => simp [reserved]
    | 1 => simp [reserved]
    | 2 => simp [reserved]
    | 3 => simp [reserved]
    | n + 4 => omega

/-- The limits part: its bounds in order, then its persistence. -/
theorem limitsOf_eq (signed : Bool) (w1 w3 w4 w5 : Word) :
    limitsOf signed w1 w3 w4 w5 =
      if w1.getLsbD 13 = true → loOf signed w3 w4 ≤ hiOf signed w4 w5 then
        if w1.getLsbD 13 = true → 1 ≤ field w1 0 8 then .ok (limitsRead signed w1 w3 w4 w5) else .error 4
      else .error 3 := by
  simp only [limitsOf, limitsRead, beq_iff_eq]
  cases w1.getLsbD 13 with
  | false => rfl
  | true =>
    by_cases ordered : hiOf signed w4 w5 < loOf signed w3 w4
    case pos => simp [ordered]
    case neg =>
      by_cases never : field w1 0 8 = 0
      case pos => simp [ordered, never, Int.not_lt.mp ordered]
      case neg => simp [ordered, never, Int.not_lt.mp ordered, Nat.one_le_iff_ne_zero]

/-- The fields that TUNE_PARAM replaces, as words 1 to 5 hold them. -/
def tunedRead (signed : Bool) (w1 w2 w3 w4 w5 : Word) : TunedFields :=
  { link := if w1.getLsbD 14 then 1 else 0, emission := emissionRead w1 w2,
    limits := limitsRead signed w1 w3 w4 w5 }

/-- The fields that TUNE_PARAM replaces, in the order they are examined. -/
theorem tunedFieldsOf_eq (signed : Bool) (w1 w2 w3 w4 w5 : Word) :
    tunedFieldsOf signed w1 w2 w3 w4 w5 =
      if w1.extractLsb' 10 3 = 0 ∧ field w1 8 2 ≤ 2 then
        if field w1 8 2 = 1 → 2 ≤ w2.toNat ∧ w2.toNat ≤ 255 then
          if w1.getLsbD 13 = true → loOf signed w3 w4 ≤ hiOf signed w4 w5 then
            if w1.getLsbD 13 = true → 1 ≤ field w1 0 8 then .ok (tunedRead signed w1 w2 w3 w4 w5) else .error 4
          else .error 3
        else .error 1
      else .error 0 := by
  rw [tunedFieldsOf, emissionOf_eq, limitsOf_eq, tunedRead]
  generalize (if w1.getLsbD 14 = true then (1 : Link) else 0) = link
  split_ifs <;> rfl

/-- A parameter definition read from six words. -/
theorem paramDefOf_eq_some_iff {w0 w1 w2 w3 w4 w5 : Word} {d : ParamDef} :
    paramDefOf w0 w1 w2 w3 w4 w5 = some d ↔
      w1.extractLsb' 10 3 = 0 ∧ field w1 8 2 ≤ 2 ∧ (field w1 8 2 = 1 → 2 ≤ w2.toNat ∧ w2.toNat ≤ 255) ∧
      1 ≤ field w0 12 4 ∧ field w0 12 4 ≤ 4 ∧
      (w1.getLsbD 13 = true →
        loOf (w1.getLsbD 15) w3 w4 ≤ hiOf (w1.getLsbD 15) w4 w5 ∧ 1 ≤ field w1 0 8) ∧
      d = { number := field w0 0 12, pieces := field w0 12 4, signed := w1.getLsbD 15,
            link := if w1.getLsbD 14 then 1 else 0, emission := emissionRead w1 w2,
            limits := limitsRead (w1.getLsbD 15) w1 w3 w4 w5 } := by
  rw [paramDefOf, tunedFieldsOf_eq]
  by_cases mode : w1.extractLsb' 10 3 = 0 ∧ field w1 8 2 ≤ 2
  case neg => exact iff_of_false (by simp only [if_neg mode]; exact nofun) fun h => mode ⟨h.1, h.2.1⟩
  by_cases argument : field w1 8 2 = 1 → 2 ≤ w2.toNat ∧ w2.toNat ≤ 255
  case neg => exact iff_of_false (by simp only [if_pos mode, if_neg argument]; exact nofun) fun h => argument h.2.2.1
  by_cases bounds : w1.getLsbD 13 = true → loOf (w1.getLsbD 15) w3 w4 ≤ hiOf (w1.getLsbD 15) w4 w5
  case neg =>
    exact iff_of_false (by simp only [if_pos mode, if_pos argument, if_neg bounds]; exact nofun)
      fun ⟨_, _, _, _, _, h, _⟩ => bounds fun part => (h part).1
  by_cases times : w1.getLsbD 13 = true → 1 ≤ field w1 0 8
  case neg =>
    exact iff_of_false (by simp only [if_pos mode, if_pos argument, if_pos bounds, if_neg times]; exact nofun)
      fun ⟨_, _, _, _, _, h, _⟩ => times fun part => (h part).2
  simp only [if_pos mode, if_pos argument, if_pos bounds, if_pos times, Option.ite_none_right_eq_some, within_iff,
    Option.some.injEq]
  constructor
  · rintro ⟨⟨hlo, hhi⟩, rfl⟩
    exact ⟨mode.1, mode.2, argument, hlo, hhi, fun part => ⟨bounds part, times part⟩, rfl⟩
  · rintro ⟨-, -, -, hlo, hhi, -, rfl⟩
    exact ⟨⟨hlo, hhi⟩, rfl⟩

/-! ### Items placed one by one (R54, R55) -/

section
variable {α : Type} (clash : α → List α → Bool) (place : α → List α → List α) (bad : Status)

/-- Items checked one by one, each against the list with the items before it placed. -/
def placeEach : Nat → List α → List (Option α) → Except (Status × Nat) (List α)
  | _, held, [] => .ok held
  | i, _, none :: _ => .error (.badArgument, i)
  | i, held, some e :: rest =>
    if clash e held then .error (bad, i) else placeEach (i + 1) (place e held) rest

/-- The item that fails is counted from the first. -/
theorem le_of_placeEach_error {status : Status} {i : Nat} (items : List (Option α)) :
    ∀ {k : Nat} {held : List α}, placeEach clash place bad k held items = .error (status, i) → k ≤ i := by
  induction items with
  | nil => exact nofun
  | cons item rest ih =>
    intro k held h
    cases item with
    | none =>
      cases h
      exact Nat.le_refl _
    | some e =>
      rw [placeEach] at h
      split at h
      · cases h
        exact Nat.le_refl _
      · exact Nat.le_of_succ_le (ih h)

/-- The first item that fails: out of range, or in conflict with what stands when it is checked. -/
theorem placeEach_error_iff {status : Status} (items : List (Option α)) :
    ∀ {k j : Nat} {held : List α}, placeEach clash place bad k held items = .error (status, k + j) ↔
      ∃ placed, placeEach clash place bad k held (items.take j) = .ok placed ∧
        ((items[j]? = some none ∧ status = .badArgument) ∨
          ∃ e, items[j]? = some (some e) ∧ clash e placed = true ∧ status = bad) := by
  induction items with
  | nil =>
    intro k j held
    exact iff_of_false nofun (by simp)
  | cons item rest ih =>
    intro k j held
    cases item with
    | none =>
      cases j with
      | zero => simpa [placeEach] using eq_comm
      | succ j => exact iff_of_false (by simp [placeEach]) (by simp [placeEach])
    | some e =>
      rw [placeEach]
      by_cases conflict : clash e held = true
      case pos =>
        rw [if_pos conflict]
        cases j with
        | zero => simpa [placeEach, conflict] using eq_comm
        | succ j => exact iff_of_false (by simp) (by simp [placeEach, conflict])
      case neg =>
        rw [if_neg conflict]
        cases j with
        | zero =>
          refine iff_of_false (fun h => ?_) (by simp [placeEach, conflict])
          exact absurd (le_of_placeEach_error clash place bad rest h) (by omega)
        | succ j =>
          rw [show k + (j + 1) = k + 1 + j by omega, ih]
          simp [placeEach, conflict]

/-- Items that all passed: the list holds them too, and none is out of range. -/
theorem placeEach_ok (hp : ∀ e xs, (place e xs).Perm (e :: xs)) (items : List (Option α)) :
    ∀ {k : Nat} {held placed : List α}, placeEach clash place bad k held items = .ok placed →
      placed.Perm (held ++ items.filterMap id) ∧ none ∉ items := by
  induction items with
  | nil =>
    intro k held placed h
    cases h
    simp
  | cons item rest ih =>
    intro k held placed h
    cases item with
    | none => cases h
    | some e =>
      rw [placeEach] at h
      split at h
      case isTrue => cases h
      case isFalse =>
        obtain ⟨perm, inRange⟩ := ih h
        refine ⟨?_, by simpa using inRange⟩
        exact (perm.trans ((hp e held).append_right _)).trans List.perm_middle.symm

end

/-- The entries of STAGE_SLOTS are placed one by one. -/
theorem addSlots_eq (items : List (Option SlotEntry)) :
    ∀ (i : Nat) (held : List SlotEntry), addSlots i held items =
      placeEach (fun e xs => xs.any (overlaps e)) insertSlot .slotConflict i held items := by
  induction items with
  | nil => exact fun _ _ => rfl
  | cons item rest ih =>
    intro i held
    cases item with
    | none => rfl
    | some e => simp only [addSlots, placeEach, ih]

/-- The definitions of STAGE_PARAMS are placed one by one. -/
theorem addParams_eq (items : List (Option ParamDef)) :
    ∀ (i : Nat) (held : List ParamDef), addParams i held items =
      placeEach (fun d xs => xs.any (fun x => x.number == d.number)) insertParam .paramDuplicate i held items := by
  induction items with
  | nil => exact fun _ _ => rfl
  | cons item rest ih =>
    intro i held
    cases item with
    | none => rfl
    | some d => simp only [addParams, placeEach, ih]

end Sys2Proof.Machine
end

section
/-! PROOFS. The orders that build a standby bank, and from them the obligation O44. -/

namespace Sys2Proof.Machine

section
variable {f : Slot} {s : State}

/-! ### The standby bank opened (R51, R52) -/

/-- A standby opened keeps the active letter. -/
theorem openStaging_active (f : Slot) (s : State) : ((openStaging f s).format f).active = (s.format f).active := by
  unfold openStaging
  split
  · rw [emptyStandby_format_same, FormatSlot.withStandby_active]
  · rw [setFormat_format_same]
  · rfl
  · rfl

/-- A standby opened keeps its letter. -/
theorem standbyLetter_openStaging (f : Slot) (s : State) : standbyLetter f (openStaging f s) = standbyLetter f s := by
  rw [standbyLetter, openStaging_active, standbyLetter]

/-- A fallback opened is freed. -/
theorem openStaging_of_fallback (h : (s.format f).standby = .fallback) :
    openStaging f s = emptyStandby f .staging s := by
  simp only [openStaging, h]

/-- An EMPTY standby opened becomes STAGING. -/
theorem openStaging_of_empty (h : (s.format f).standby = .empty) :
    openStaging f s = s.setFormat f { s.format f with standby := .staging } := by
  simp only [openStaging, h]

/-- A STAGING standby opened stays. -/
theorem openStaging_of_staging (h : (s.format f).standby = .staging) : openStaging f s = s := by
  simp only [openStaging, h]

/-- The letter of the standby, by the active one. -/
theorem standbyLetter_eq : standbyLetter f s = if (s.format f).active = .a then 0x000B else 0x000A := by
  rw [standbyLetter]
  cases (s.format f).active <;> rfl

/-! ### What the staging orders answer (R53 to R57) -/

variable {o : QueuedOrder} {u : State} {status : Status} {detail : Word}

theorem exec_stageHeader (h : s.Carries 0x10 o) (h0 : o.arg 0 = f.val) (hp : (s.format f).isPending = false)
    (hc : placeHeader (headerOf o) f (openStaging f s) = (u, status, detail)) :
    exec .stageHeader s = .next (answer o (Reply.one status detail (stagingBody f u)) u.draw) :=
  congrArg Host.Outcome.next (carryOut_eq h (stagingOrder_open h0 hp hc))

theorem exec_stageSlots (h : s.Carries 0x11 o) (h0 : o.arg 0 = f.val) (hp : (s.format f).isPending = false)
    (hc : placeSlots (slotItems o.body.tail) f (openStaging f s) = (u, status, detail)) :
    exec .stageSlots s = .next (answer o (Reply.one status detail (stagingBody f u)) u.draw) :=
  congrArg Host.Outcome.next (carryOut_eq h (stagingOrder_open h0 hp hc))

theorem exec_stageParams (h : s.Carries 0x12 o) (h0 : o.arg 0 = f.val) (hp : (s.format f).isPending = false)
    (hc : placeParams (paramItems o.body.tail) f (openStaging f s) = (u, status, detail)) :
    exec .stageParams s = .next (answer o (Reply.one status detail (stagingBody f u)) u.draw) :=
  congrArg Host.Outcome.next (carryOut_eq h (stagingOrder_open h0 hp hc))

/-- The entries of an order that pass their checks, by the room of the pool. -/
theorem placeSlots_ok {items : List (Option SlotEntry)} {slots : List SlotEntry}
    (h : addSlots 0 (s.format f).standbyBank.slots items = .ok slots) :
    placeSlots items f s =
      if items.length ≤ s.freeSlots then
        ((s.setStandbyBank f { (s.format f).standbyBank with slots := slots }).setFree
          (s.freeSlots - items.length) s.freeParams, .ok, standbyLetter f s)
      else (s, .noSpace, numWord s.freeSlots) := by
  simp only [placeSlots, h]

theorem placeSlots_error {items : List (Option SlotEntry)} {i : Nat}
    (h : addSlots 0 (s.format f).standbyBank.slots items = .error (status, i)) :
    placeSlots items f s = (s, status, numWord i) := by
  simp only [placeSlots, h]

/-- The definitions of an order that pass their checks, by the room of the pool. -/
theorem placeParams_ok {items : List (Option ParamDef)} {params : List ParamDef}
    (h : addParams 0 (s.format f).standbyBank.params items = .ok params) :
    placeParams items f s =
      if items.length ≤ s.freeParams then
        ((s.setStandbyBank f { (s.format f).standbyBank with params := params }).setFree
          s.freeSlots (s.freeParams - items.length), .ok, standbyLetter f s)
      else (s, .noSpace, numWord s.freeParams) := by
  simp only [placeParams, h]

theorem placeParams_error {items : List (Option ParamDef)} {i : Nat}
    (h : addParams 0 (s.format f).standbyBank.params items = .error (status, i)) :
    placeParams items f s = (s, status, numWord i) := by
  simp only [placeParams, h]

end

/-- Settles O44: the opened standby, the staged words, and what each staging order makes of them. -/
theorem standbyStaged : Obligations.StandbyStaged := by
  unfold Obligations.StandbyStaged
  refine ⟨?opened, ?headers, ?slots, ?params, ?orders⟩
  case opened =>
    intro s a f x b hx hb ha
    rw [ha, hb, hx]
    refine ⟨standbyLetter_eq, rfl, ?empty, openStaging_of_staging, ?fallback⟩
    case empty =>
      intro h
      rw [openStaging_of_empty h]
      refine ⟨rfl, fun lawful => ?_⟩
      rw [setFormat_format_same]
      exact lawful.2.1 h
    case fallback =>
      intro h
      rw [openStaging_of_fallback h, emptyStandby_format_same]
      exact ⟨FormatSlot.withStandby_standby _ _ _, FormatSlot.withStandby_standbyBank _ _ _,
        FormatSlot.withStandby_activeBank _ _ _, FormatSlot.withStandby_active _ _ _,
        FormatSlot.withStandby_probation _ _ _, fun g hg => emptyStandby_format_ne f .staging s hg,
        emptyStandby_freeSlots f .staging s, emptyStandby_freeParams f .staging s, emptyStandby_frame f .staging s⟩
  case headers =>
    intro o checks hchecks
    rw [hchecks]
    exact ⟨rfl, headerFailure_eq (headerOf o)⟩
  case slots =>
    intro w0 w1 w2
    exact ⟨fun e => slotEntryOf_eq_some_iff, rfl, fun rest => rfl⟩
  case params =>
    intro w0 w1 w2 w3 w4 w5 mode pieces persistence lo hi l h hm hp hs hlo hhi hl hh
    rw [hl, hh, hlo, hhi, hs, hp, hm]
    exact ⟨fun d => paramDefOf_eq_some_iff, rfl, fun rest => rfl⟩
  case orders =>
    intro o s a f b h0 hp ha hb
    rw [← standbyLetter_openStaging, hb, ← ha]
    refine ⟨?header, ?badHeader, ?slots, ?badSlots, ?badParams, ?slotChecks, ?paramChecks, ?params⟩
    case header =>
      intro u h hf hu
      exact exec_stageHeader h h0 hp (by simp only [placeHeader, hf, ← ha, ← hu])
    case badHeader =>
      intro i h hf
      exact exec_stageHeader h h0 hp (by simp only [placeHeader, hf, ← ha])
    case slots =>
      intro items slots u h hi hs hu
      constructor
      case left =>
        intro room
        exact exec_stageSlots h h0 hp (by rw [← hi, ← ha, placeSlots_ok hs, if_pos room, ← hu])
      case right =>
        intro full
        exact exec_stageSlots h h0 hp (by rw [← hi, ← ha, placeSlots_ok hs, if_neg (Nat.not_le.mpr full)])
    case badSlots =>
      intro items status i h hi hs
      exact exec_stageSlots h h0 hp (by rw [← hi, ← ha, placeSlots_error hs])
    case badParams =>
      intro items status i h hi hs
      exact exec_stageParams h h0 hp (by rw [← hi, ← ha, placeParams_error hs])
    case slotChecks =>
      intro held items
      simp only [addSlots_eq]
      refine ⟨fun status i => ?_, fun placed hplaced => placeEach_ok _ _ _ insertSlot_perm items hplaced⟩
      simpa only [Nat.zero_add, List.any_eq_true] using
        placeEach_error_iff (fun e xs => xs.any (overlaps e)) insertSlot .slotConflict items (k := 0) (j := i)
    case paramChecks =>
      intro held items
      simp only [addParams_eq]
      refine ⟨fun status i => ?_, fun placed hplaced => placeEach_ok _ _ _ insertParam_perm items hplaced⟩
      simpa only [Nat.zero_add, List.any_eq_true, beq_iff_eq] using
        placeEach_error_iff (fun d xs => xs.any (fun x => x.number == d.number)) insertParam .paramDuplicate items
          (k := 0) (j := i)
    case params =>
      intro items params u h hi hs hu
      constructor
      case left =>
        intro room
        exact exec_stageParams h h0 hp (by rw [← hi, ← ha, placeParams_ok hs, if_pos room, ← hu])
      case right =>
        intro full
        exact exec_stageParams h h0 hp (by rw [← hi, ← ha, placeParams_ok hs, if_neg (Nat.not_le.mpr full)])

end Sys2Proof.Machine
end

section
/-! PROOFS. The content checks of COMMIT, each by what it asks for and by the first place that fails it. -/

namespace Sys2Proof.Machine

/-- The first place that fails a check is the answer. -/
theorem firstFailing_eq_some {α : Type} {ok : α → Bool} {x : α} {xs : List α} :
    ∀ {i k : Nat}, xs[i]? = some x → ok x = false → (∀ (j : Nat) (y : α), j < i → xs[j]? = some y → ok y = true) →
      firstFailing ok k xs = some (k + i) := by
  induction xs with
  | nil => exact nofun
  | cons a rest ih =>
    intro i k hx bad before
    rw [firstFailing_cons]
    cases i with
    | zero =>
      cases hx
      rw [bad]
      rfl
    | succ i =>
      rw [before 0 a (Nat.zero_lt_succ i) rfl, if_pos rfl,
        ih (k := k + 1) hx bad (fun j y hj hy => before (j + 1) y (Nat.succ_lt_succ hj) hy)]
      congr 1
      omega

/-- No place fails a check that every place passes. -/
theorem firstFailing_none {α : Type} {ok : α → Bool} {i : Nat} {xs : List α} (h : ∀ x ∈ xs, ok x = true) :
    firstFailing ok i xs = none :=
  firstFailing_eq_none_iff.mpr h

/-! ### Positions (R65) -/

/-- Whether the position of an entry fits a trunk's frame beside the header's ID position. -/
def positionFits (p : Profile) (h : Header) (e : SlotEntry) : Bool :=
  within e.pos (p.syncWords + 1) p.words && (p.tagPos == 0 || e.pos != p.tagPos) &&
    (h.length ≤ 1 || e.pos != h.idPos)

theorem positionFits_iff {p : Profile} {h : Header} {e : SlotEntry} :
    positionFits p h e = true ↔
      p.syncWords < e.pos ∧ e.pos ≤ p.words ∧ (p.tagPos ≠ 0 → e.pos ≠ p.tagPos) ∧
        (1 < h.length → e.pos ≠ h.idPos) := by
  simp only [positionFits, Bool.and_eq_true, Bool.or_eq_true, within_iff, beq_iff_eq, bne_iff_ne, decide_eq_true_eq,
    Nat.succ_le_iff, or_iff_not_imp_left, Nat.not_le, and_assoc]

section
variable {p : Profile} {b : Bank} {h : Header}

/-- The positions of a bank with a header: the ID position, then the entries in order. -/
theorem positionFailure_eq (hb : b.header = some h) :
    positionFailure p b =
      if 1 < h.length ∧ ¬ (p.syncWords < h.idPos ∧ h.idPos ≤ p.words ∧ h.idPos ≠ p.tagPos) then some 0xFFFF
      else (firstFailing (positionFits p h) 0 b.slots).map numWord := by
  have range : within h.idPos (p.syncWords + 1) p.words = true ∧ h.idPos ≠ p.tagPos ↔
      p.syncWords < h.idPos ∧ h.idPos ≤ p.words ∧ h.idPos ≠ p.tagPos := by
    rw [within_iff, Nat.succ_le_iff, and_assoc]
  simp only [positionFailure, hb, range]
  rfl

/-- The positions of a bank that fit. -/
theorem positionFailure_eq_none_iff (hb : b.header = some h) :
    positionFailure p b = none ↔
      (1 < h.length → p.syncWords < h.idPos ∧ h.idPos ≤ p.words ∧ h.idPos ≠ p.tagPos) ∧
        ∀ e ∈ b.slots, positionFits p h e = true := by
  rw [positionFailure_eq hb]
  split
  next bad => exact iff_of_false nofun fun good => bad.2 (good.1 bad.1)
  next good =>
    have id : 1 < h.length → p.syncWords < h.idPos ∧ h.idPos ≤ p.words ∧ h.idPos ≠ p.tagPos :=
      fun long => Classical.not_not.mp fun bad => good ⟨long, bad⟩
    rw [Option.map_eq_none_iff, firstFailing_eq_none_iff]
    exact (and_iff_right id).symm

end

/-! ### Completeness (R64) -/

/-- Whether the entries that name a definition are complete. -/
theorem piecesComplete_iff {m : Nat} {slots : List SlotEntry} {d : ParamDef} :
    piecesComplete m slots d = true ↔
      (d.pieces = 1 → ∀ e ∈ slots, e.param = d.number → e.piece = 0) ∧
      (d.pieces ≠ 1 → (∃ e ∈ slots, e.param = d.number) →
        (∀ e ∈ slots, e.param = d.number → e.piece < d.pieces ∧ e.interval = m) ∧
        ∀ i : Nat, i < d.pieces → slots.countP (fun e => e.param == d.number && e.piece == i) = 1) := by
  have count : ∀ i : Nat, (slots.filter (fun e => e.param == d.number)).countP (fun e => e.piece == i) =
      slots.countP (fun e => e.param == d.number && e.piece == i) := fun i => by
    rw [List.countP_filter]
    simp only [Bool.and_comm]
  have unnamed : (slots.filter (fun e => e.param == d.number)).isEmpty = true ↔
      ¬ ∃ e ∈ slots, e.param = d.number := by
    simp [List.isEmpty_iff, List.filter_eq_nil_iff]
  unfold piecesComplete
  by_cases whole : d.pieces = 1
  case pos => simp [whole, imp_iff_not_or]
  case neg =>
    simp only [whole, if_false, Bool.or_eq_true, Bool.and_eq_true, unnamed, count, List.all_eq_true,
      List.mem_filter, List.mem_range, beq_iff_eq, decide_eq_true_eq, and_imp, false_implies, true_and,
      not_false_eq_true, true_implies, ← imp_iff_not_or, ne_eq]

section
variable {f : Slot} {b : Bank} {s : State} {h : Header}

/-- Whether an interval divides the header's length. -/
theorem divides_iff {e : SlotEntry} : (h.length % e.interval == 0) = true ↔ e.interval ∣ h.length := by
  rw [beq_iff_eq, Nat.dvd_iff_mod_eq_zero]

/-- Whether a bank defines the parameter of an entry. -/
theorem defined_iff {n : Nat} : (b.definition? n).isSome = true ↔ ∃ d ∈ b.params, d.number = n := by
  rw [Bank.definition?_isSome_iff, List.mem_map]

/-- A bank that passes checks (1) to (4). -/
theorem incomplete_eq_none_iff (hb : b.header = some h) :
    incomplete b = none ↔
      (∀ e ∈ b.slots, e.interval ∣ h.length) ∧ (∀ e ∈ b.slots, ∃ d ∈ b.params, d.number = e.param) ∧
        ∀ d ∈ b.params, piecesComplete h.length b.slots d = true := by
  simp only [← divides_iff, ← defined_iff, ← firstFailing_eq_none_iff (i := 0)]
  simp only [incomplete, hb]
  split
  next i h2 => simp [h2]
  next h2 =>
    split
    next i h3 => simp [h3]
    next h3 =>
      split
      next i h4 => simp [h4]
      next h4 => simp [h2, h3, h4]

/-- A bank that passes all checks. -/
theorem commitFailure_eq_none_iff :
    commitFailure f b s = none ↔ incomplete b = none ∧ misplaced f b s = none ∧ clashing f b s = none := by
  unfold commitFailure
  split
  next x h1 => simp [h1]
  next h1 =>
    split
    next x h2 => simp [h2]
    next h2 => simp [h1, h2]

/-- A bank that fails a check of its content. -/
theorem commitFailure_of_incomplete {x : CommitFailure} (hi : incomplete b = some x) :
    commitFailure f b s = some x := by
  simp only [commitFailure, hi]

/-- Positions that fit the trunk of the bound row. -/
theorem misplaced_eq_none_iff :
    misplaced f b s = none ↔
      ∀ (t : Trunk) (r : RowIx), s.boundRow f = some (t, r) → positionFailure (s.receiver t).profile b = none := by
  unfold misplaced
  split
  next hn => simp [hn]
  next t r hr => simp [hr]

/-! ### Numbers in use (R66) -/

/-- No other format slot claims a number. -/
theorem claimant_eq_none_iff {n : Nat} :
    claimant f s n = none ↔ ∀ g : Slot, g ≠ f → (s.format g).claims n = false := by
  simp [claimant, mem_slotList]

/-- The one other format slot that claims a number. -/
theorem claimant_eq_some {n : Nat} {g : Slot} (hg : g ≠ f) (hc : (s.format g).claims n = true)
    (only : ∀ g' : Slot, g' ≠ f → (s.format g').claims n = true → g' = g) : claimant f s n = some g := by
  cases found : claimant f s n with
  | none =>
    rw [claimant_eq_none_iff.mp found g hg] at hc
    cases hc
  | some g' =>
    have claims := List.find?_some found
    rw [Bool.and_eq_true, bne_iff_ne] at claims
    rw [only g' claims.1 claims.2]

/-- The first number of a bank that another format slot claims. -/
theorem clashing_eq_some {i : Nat} {d : ParamDef} {g : Slot} (hd : b.params[i]? = some d) (hg : g ≠ f)
    (hc : (s.format g).claims d.number = true)
    (only : ∀ g' : Slot, g' ≠ f → (s.format g').claims d.number = true → g' = g)
    (before : ∀ (j : Nat) (x : ParamDef) (g' : Slot), j < i → b.params[j]? = some x → g' ≠ f →
      (s.format g').claims x.number = false) :
    clashing f b s = some { status := .paramClash, detail := numWord i, check := 6, other := g.val } := by
  have claimed := claimant_eq_some hg hc only
  have first : firstFailing (fun d => (claimant f s d.number).isNone) 0 b.params = some (0 + i) :=
    firstFailing_eq_some hd (by rw [claimed]; rfl) fun j x hj hx => by
      rw [claimant_eq_none_iff.mpr fun g' hg' => before j x g' hj hx hg']
      rfl
  simp only [clashing, first, Nat.zero_add, hd, Option.bind_some, claimed]

/-- No number of a bank that another format slot claims. -/
theorem clashing_eq_none_iff :
    clashing f b s = none ↔ ∀ d ∈ b.params, ∀ g : Slot, g ≠ f → (s.format g).claims d.number = false := by
  have unclaimed : (∀ d ∈ b.params, ∀ g : Slot, g ≠ f → (s.format g).claims d.number = false) ↔
      firstFailing (fun d => (claimant f s d.number).isNone) 0 b.params = none := by
    simp only [firstFailing_eq_none_iff, Option.isNone_iff_eq_none, claimant_eq_none_iff]
  rw [unclaimed, clashing]
  split
  next hn => simp [hn]
  next i hi => simp [hi]

end

/-- Settles O47: each check by its first failing place, and what a bank has that passes all of them. -/
theorem commitChecksInOrder : Obligations.CommitChecksInOrder := by
  unfold Obligations.CommitChecksInOrder
  constructor
  case left =>
    intro p b
    refine ⟨fun hn => by simp only [positionFailure, hn], fun h fits hb hfits => ?_⟩
    have fitsBool : ∀ e, fits e ↔ positionFits p h e = true := fun e => (hfits e).trans positionFits_iff.symm
    refine ⟨fun long bad => by rw [positionFailure_eq hb, if_pos ⟨long, bad⟩], fun id => ⟨?_, ?_⟩⟩
    · intro i e he bad before
      have first : firstFailing (positionFits p h) 0 b.slots = some (0 + i) :=
        firstFailing_eq_some he (by simpa [fitsBool] using bad)
          fun j x hj hx => (fitsBool x).mp (before j x hj hx)
      rw [positionFailure_eq hb, if_neg fun bad => bad.2 (id bad.1), first, Nat.zero_add, Option.map_some]
    · exact fun all => (positionFailure_eq_none_iff hb).mpr ⟨id, fun e he => (fitsBool e).mp (all e he)⟩
  case right =>
    intro f b s
    refine ⟨fun hn => by simp only [commitFailure, incomplete, hn], fun h hb => ⟨?intervals, ?defined, ?rest, ?passed⟩⟩
    case intervals =>
      intro i e he bad before
      have first : firstFailing (fun e => h.length % e.interval == 0) 0 b.slots = some (0 + i) :=
        firstFailing_eq_some he (Bool.eq_false_iff.mpr (mt divides_iff.mp bad))
          fun j x hj hx => divides_iff.mpr (before j x hj hx)
      exact commitFailure_of_incomplete (by simp only [incomplete, hb, first, Nat.zero_add])
    case defined =>
      intro divides i e he bad before
      have second : firstFailing (fun e => h.length % e.interval == 0) 0 b.slots = none :=
        firstFailing_none fun e he => divides_iff.mpr (divides e he)
      have third : firstFailing (fun e => (b.definition? e.param).isSome) 0 b.slots = some (0 + i) :=
        firstFailing_eq_some he (Bool.eq_false_iff.mpr (mt defined_iff.mp fun ⟨d, hd, hn⟩ => bad d hd hn))
          fun j x hj hx => defined_iff.mpr (before j x hj hx)
      exact commitFailure_of_incomplete (by simp only [incomplete, hb, second, third, Nat.zero_add])
    case rest =>
      intro entries
      have second : firstFailing (fun e => h.length % e.interval == 0) 0 b.slots = none :=
        firstFailing_none fun e he => divides_iff.mpr (entries e he).1
      have third : firstFailing (fun e => (b.definition? e.param).isSome) 0 b.slots = none :=
        firstFailing_none fun e he => defined_iff.mpr (entries e he).2
      constructor
      case left =>
        intro i d hd bad before
        have fourth : firstFailing (piecesComplete h.length b.slots) 0 b.params = some (0 + i) :=
          firstFailing_eq_some hd bad before
        exact commitFailure_of_incomplete (by simp only [incomplete, hb, second, third, fourth, Nat.zero_add])
      case right =>
        intro pieces
        have complete : incomplete b = none :=
          (incomplete_eq_none_iff hb).mpr ⟨fun e he => (entries e he).1, fun e he => (entries e he).2, pieces⟩
        constructor
        case left =>
          intro t r d hr hd
          simp only [commitFailure, complete, misplaced, hr, hd, Option.map_some]
        case right =>
          intro placed i d g hd hg hc only before
          simp only [commitFailure, complete, misplaced_eq_none_iff.mpr placed,
            clashing_eq_some hd hg hc only before]
    case passed =>
      intro passed
      obtain ⟨complete, placed, apart⟩ := commitFailure_eq_none_iff.mp passed
      obtain ⟨divides, defined, pieces⟩ := (incomplete_eq_none_iff hb).mp complete
      refine ⟨fun e he => ⟨divides e he, defined e he⟩, fun d hd => (piecesComplete_iff.mp (pieces d hd)).1,
        fun d hd => (piecesComplete_iff.mp (pieces d hd)).2, ?_, clashing_eq_none_iff.mp apart⟩
      intro t r p hr hp
      have fits := (positionFailure_eq_none_iff hb).mp (misplaced_eq_none_iff.mp placed t r hr)
      rw [← hp] at fits
      exact ⟨fits.1, fun e he => positionFits_iff.mp (fits.2 e he)⟩

end Sys2Proof.Machine
end

section
/-! PROOFS. TUNE_PARAM: its fields, its refusals, and what it changes. -/

namespace Sys2Proof.Machine

/-! ### Banks and runtimes with one entry replaced -/

/-- The definitions of a bank once one is replaced. -/
theorem Bank.replaceParam_definition? (b : Bank) (d : ParamDef) (n : Nat) :
    (b.replaceParam d).definition? n =
      (b.definition? n).map (fun x => if x.number = d.number then d else x) := by
  have numbers : (fun x : ParamDef => x.number == n) ∘ (fun x => if x.number = d.number then d else x) =
      fun x => x.number == n := by
    funext x
    by_cases h : x.number = d.number <;> simp [h]
  rw [Bank.definition?, replaceParam, List.find?_map, numbers, Bank.definition?]

section
variable {b : Bank} {d old : ParamDef} {n : Nat}

/-- The number of the definition that a bank has for a number. -/
theorem Bank.number_of_definition? (h : b.definition? n = some d) : d.number = n := by
  simpa using List.find?_some h

/-- A definition replaced by one of its number is the new one. -/
theorem Bank.replaceParam_definition?_same (h : b.definition? d.number = some old) :
    (b.replaceParam d).definition? d.number = some d := by
  rw [replaceParam_definition?, h, Option.map_some, if_pos (number_of_definition? h)]

/-- A definition replaced leaves those of other numbers. -/
theorem Bank.replaceParam_definition?_ne (h : n ≠ d.number) : (b.replaceParam d).definition? n = b.definition? n := by
  rw [replaceParam_definition?]
  cases hx : b.definition? n with
  | none => rfl
  | some x => rw [Option.map_some, if_neg (by rw [number_of_definition? hx]; exact h)]

end

/-- A runtime replaced leaves those of other numbers. -/
theorem find?_replaceRuntime_ne {number k : Nat} (h : k ≠ number) (rt : Runtime) (es : List RuntimeEntry) :
    (replaceRuntime number rt es).find? (fun e => e.number == k) = es.find? (fun e => e.number == k) := by
  have numbers : (fun e : RuntimeEntry => e.number == k) ∘
      (fun e => if e.number = number then { e with runtime := rt } else e) = fun e => e.number == k := by
    funext e
    by_cases he : e.number = number <;> simp [he]
  rw [replaceRuntime, List.find?_map, numbers]
  cases he : es.find? (fun e => e.number == k) with
  | none => rfl
  | some e =>
    have his : e.number = k := by simpa using List.find?_some he
    rw [Option.map_some, if_neg (by rw [his]; exact h)]

section
variable {s : State} {f : Slot} {number : Nat} (rt : Runtime)

/-- The runtime written is the one read. -/
theorem runtime?_setRuntime_same {old : Runtime} (h : s.runtime? f number = some old) :
    (s.setRuntime f number rt).runtime? f number = some rt := by
  obtain ⟨e, he, -⟩ := Option.map_eq_some_iff.mp h
  rw [State.runtime?, State.setRuntime, setRuntimes_runtimesOf_same]
  exact find?_replaceRuntime rt he

/-- A runtime written leaves those of other numbers. -/
theorem runtime?_setRuntime_ne {k : Nat} (h : k ≠ number) :
    (s.setRuntime f number rt).runtime? f k = s.runtime? f k := by
  rw [State.runtime?, State.setRuntime, setRuntimes_runtimesOf_same, find?_replaceRuntime_ne h, State.runtime?]

end

/-! ### What TUNE_PARAM changes (R80, R111) -/

section
variable (f : Slot) (old new : ParamDef) (s : State)

/-- TUNE_PARAM without a runtime, and with one. -/
theorem applyTune_cases :
    ∃ edited : State,
      edited = s.setFormat f
        ((s.format f).setBank (s.format f).active ((s.format f).activeBank.replaceParam new)) ∧
      ((s.runtime? f old.number = none ∧ applyTune f old new s = edited) ∨
        ∃ rt, s.runtime? f old.number = some rt ∧
          applyTune f old new s = edited.setRuntime f old.number (adjustTuned old new rt)) := by
  refine ⟨_, rfl, ?_⟩
  cases h : s.runtime? f old.number with
  | none => exact .inl ⟨rfl, by simp only [applyTune, h]⟩
  | some rt => exact .inr ⟨rt, rfl, by simp only [applyTune, h]⟩

/-- The format slots after TUNE_PARAM. -/
theorem applyTune_format (g : Slot) :
    (applyTune f old new s).format g =
      if f = g then (s.format f).setBank (s.format f).active ((s.format f).activeBank.replaceParam new)
      else s.format g := by
  obtain ⟨edited, he, ⟨-, h⟩ | ⟨rt, -, h⟩⟩ := applyTune_cases f old new s
  · rw [h, he, setFormat_format]
  · rw [h, State.setRuntime, setRuntimes_format, he, setFormat_format]

/-- The runtimes of other format slots after TUNE_PARAM. -/
theorem applyTune_runtimesOf_ne {g : Slot} (hg : f ≠ g) : (applyTune f old new s).runtimesOf g = s.runtimesOf g := by
  obtain ⟨edited, he, ⟨-, h⟩ | ⟨rt, -, h⟩⟩ := applyTune_cases f old new s
  · rw [h, he, setFormat_runtimesOf]
  · rw [h, State.setRuntime, setRuntimes_runtimesOf_ne _ _ _ _ hg, he, setFormat_runtimesOf]

/-- The runtime of the tuned number. -/
theorem applyTune_runtime?_same :
    (applyTune f old new s).runtime? f old.number = (s.runtime? f old.number).map (adjustTuned old new) := by
  obtain ⟨edited, he, ⟨hr, h⟩ | ⟨rt, hr, h⟩⟩ := applyTune_cases f old new s
  · rw [h, he, hr, State.runtime?, setFormat_runtimesOf]
    exact hr
  · have same : edited.runtime? f old.number = some rt := by
      rw [he, State.runtime?, setFormat_runtimesOf]
      exact hr
    rw [h, hr, runtime?_setRuntime_same _ same, Option.map_some]

/-- The runtimes of the other numbers of the format slot. -/
theorem applyTune_runtime?_ne {k : Nat} (hk : k ≠ old.number) :
    (applyTune f old new s).runtime? f k = s.runtime? f k := by
  obtain ⟨edited, he, ⟨-, h⟩ | ⟨rt, -, h⟩⟩ := applyTune_cases f old new s
  · rw [h, he, State.runtime?, setFormat_runtimesOf, State.runtime?]
  · rw [h, runtime?_setRuntime_ne _ hk, he, State.runtime?, setFormat_runtimesOf, State.runtime?]

/-- TUNE_PARAM changes a bank and a runtime only. -/
theorem applyTune_frame :
    applyTune f old new s =
      { s with formats := (applyTune f old new s).formats, runtimes := (applyTune f old new s).runtimes } := by
  obtain ⟨edited, he, ⟨-, h⟩ | ⟨rt, -, h⟩⟩ := applyTune_cases f old new s
  · rw [h, he]
    rfl
  · rw [h, he]
    rfl

end

section
variable (x : FormatSlot) (b : Bank)

/-- Another active bank keeps the rest of a format slot. -/
theorem FormatSlot.setBank_state :
    (x.setBank x.active b).active = x.active ∧ (x.setBank x.active b).standby = x.standby ∧
      (x.setBank x.active b).probation = x.probation := by
  cases h : x.active <;> exact ⟨h, rfl, rfl⟩

end

/-! ### What TUNE_PARAM answers (R165) -/

section
variable {o : QueuedOrder} {s u : State} {reply : Reply}

theorem exec_tuneParam (h : s.Carries 0x20 o) (hp : tuneParamOrder o s = (u, reply)) :
    exec .tuneParam s = .next (answer o reply u.draw) :=
  congrArg Host.Outcome.next (carryOut_eq h hp)

/-- No format slot defines a number that no active bank defines. -/
theorem definingSlot_eq_none {n : Nat} (h : ∀ f : Slot, (s.activeBank f).definition? n = none) :
    definingSlot n s = none := by
  simp [definingSlot, h]

end

/-- Four checks made in order are the first of them that fails. -/
theorem checkedInOrder_eq {mode argument bounds times : Prop} [Decidable mode] [Decidable argument]
    [Decidable bounds] [Decidable times] (x : TunedFields) :
    (if mode then
        if argument then if bounds then if times then .ok x else .error 4 else .error 3 else .error 1
      else .error 0 : Except Nat TunedFields) =
      match rangeFailure [(0, decide mode), (1, decide argument), (3, decide bounds), (4, decide times)] with
      | some i => .error i
      | none => .ok x := by
  simp only [rangeFailure_cons, rangeFailure_nil, decide_eq_true_eq]
  by_cases h0 : mode
  case neg => simp only [if_neg h0]
  by_cases h1 : argument
  case neg => simp only [if_pos h0, if_neg h1]
  by_cases h3 : bounds
  case neg => simp only [if_pos h0, if_pos h1, if_neg h3]
  by_cases h4 : times
  case neg => simp only [if_pos h0, if_pos h1, if_pos h3, if_neg h4]
  simp only [if_pos h0, if_pos h1, if_pos h3, if_pos h4]

/-- Settles O48: the fields in order, the refusals, what is replaced, and the runtime adjusted. -/
theorem parameterTuned : Obligations.ParameterTuned := by
  unfold Obligations.ParameterTuned
  refine ⟨?fields, ?orders, ?changes, ?adjusted⟩
  case fields =>
    intro signed w1 w2 w3 w4 w5 mode persistence lo hi l h checks hm hs hlo hhi hl hh hchecks
    rw [hchecks, hl, hh, hlo, hhi, hs, hm]
    exact (tunedFieldsOf_eq signed w1 w2 w3 w4 w5).trans (checkedInOrder_eq (tunedRead signed w1 w2 w3 w4 w5))
  case orders =>
    intro o s number h hn
    have read : number = definedNumber (o.word 0) := hn
    rw [read]
    constructor
    case left =>
      intro undefined
      exact exec_tuneParam h (by simp only [tuneParamOrder, definingSlot_eq_none undefined]; rfl)
    case right =>
      intro f d hf hd
      constructor
      case left =>
        intro i hx
        exact exec_tuneParam h (by simp only [tuneParamOrder, hf, hd, hx]; rfl)
      case right =>
        intro x hx
        exact exec_tuneParam h (by simp only [tuneParamOrder, hf, hd, hx]; rfl)
  case changes =>
    intro f old new s u hold hnew hu
    have format := applyTune_format f old new s f
    rw [if_pos rfl] at format
    have bank : (applyTune f old new s).activeBank f = (s.activeBank f).replaceParam new := by
      rw [State.activeBank, format, FormatSlot.setBank_activeBank]
      rfl
    obtain ⟨active, standby, probation⟩ :=
      FormatSlot.setBank_state (s.format f) ((s.format f).activeBank.replaceParam new)
    rw [hu]
    refine ⟨applyTune_frame f old new s, ?_, ?_, ?_, ?_, ?_, ?_, ?_, ?_, applyTune_runtime?_same f old new s,
      fun k hk => applyTune_runtime?_ne f old new s hk⟩
    · rw [bank, Bank.replaceParam, hnew]
    · rw [bank, ← hnew]
      exact Bank.replaceParam_definition?_same (by rw [hnew]; exact hold)
    · intro k hk
      rw [bank, Bank.replaceParam_definition?_ne (by rw [hnew]; exact hk)]
    · rw [format, FormatSlot.setBank_standbyBank]
    · rw [format, active]
    · rw [format, standby]
    · rw [format, probation]
    · intro g hg
      refine ⟨?_, applyTune_runtimesOf_ne f old new s hg.symm⟩
      rw [applyTune_format, if_neg hg.symm]
  case adjusted =>
    intro old new rt a ha
    rw [ha]
    refine ⟨?latest, ?samples, ?limits, ?reset, ?other, ?same⟩
    case latest => unfold adjustTuned; split_ifs <;> rfl
    case samples => unfold adjustTuned; split_ifs <;> rfl
    case limits =>
      intro h
      rw [adjustTuned, if_pos h]
      split <;> exact ⟨rfl, rfl, rfl⟩
    case reset =>
      intro h
      rw [adjustTuned, if_neg h]
      split <;> exact ⟨rfl, rfl, rfl⟩
    case other =>
      intro h
      rw [adjustTuned, if_neg h]
      exact ⟨rfl, rfl⟩
    case same =>
      intro h
      have kept : (adjustTuned old new rt).nth = nthUnder new.emission rt.nth ∧
          (adjustTuned old new rt).emitted = rt.emitted := by
        rw [adjustTuned, if_pos h]
        split <;> exact ⟨rfl, rfl⟩
      refine ⟨kept.2, fun n hn hle => ?_, fun below => kept.1.trans (nthUnder_kept below)⟩
      rw [kept.1, hn, nthUnder_of_le hle]

end Sys2Proof.Machine
end

section
/-! PROOFS. The switch control settled by an order, BIND_SOURCE and UNBIND_SOURCE; and from these the obligation
O43. -/

namespace Sys2Proof.Machine

/-- What stands before a number among ascending numbers is what is less. -/
theorem mem_before_iff_of_ascending {n : Nat} {q i : Fin n} {as bs : List (Fin n)}
    (h : (as ++ q :: bs).Pairwise (· < ·)) : i ∈ as ↔ i ∈ as ++ q :: bs ∧ i < q := by
  obtain ⟨-, after, before⟩ := List.pairwise_append.mp h
  constructor
  · exact fun hi => ⟨List.mem_append_left _ hi, before i hi q List.mem_cons_self⟩
  · rintro ⟨hi, hlt⟩
    rcases List.mem_append.mp hi with hi | hi
    · exact hi
    · rcases List.mem_cons.mp hi with rfl | hi
      · exact absurd hlt (lt_irrefl _)
      · exact absurd ((List.pairwise_cons.mp after).1 i hi) (not_lt_of_gt hlt)

/-- The first of ascending numbers that has a value. -/
theorem findSome?_eq_some_iff_of_ascending {n : Nat} {α : Type} {g : Fin n → Option α} {y : α} {xs : List (Fin n)}
    (h : xs.Pairwise (· < ·)) :
    xs.findSome? g = some y ↔ ∃ q ∈ xs, g q = some y ∧ ∀ i ∈ xs, i < q → g i = none := by
  rw [List.findSome?_eq_some_iff]
  constructor
  · rintro ⟨as, q, bs, rfl, hq, none⟩
    exact ⟨q, by simp, hq, fun i hi hlt => none i ((mem_before_iff_of_ascending h).mpr ⟨hi, hlt⟩)⟩
  · rintro ⟨q, hq, hy, none⟩
    obtain ⟨as, bs, rfl⟩ := List.append_of_mem hq
    refine ⟨as, q, bs, rfl, hy, fun i hi => ?_⟩
    obtain ⟨mem, lt⟩ := (mem_before_iff_of_ascending h).mp hi
    exact none i mem lt

/-- The first of ascending numbers that has a property. -/
theorem find?_eq_some_iff_of_ascending {n : Nat} {p : Fin n → Bool} {q : Fin n} {xs : List (Fin n)}
    (h : xs.Pairwise (· < ·)) :
    xs.find? p = some q ↔ q ∈ xs ∧ p q = true ∧ ∀ i ∈ xs, i < q → p i = false := by
  have value : xs.find? p = xs.findSome? (Option.guard (fun i => p i)) := List.find?_eq_findSome?_guard
  rw [value, findSome?_eq_some_iff_of_ascending h]
  simp [Option.guard_eq_none_iff, and_left_comm]

/-- The first row that has a property. -/
theorem find?_rowList_eq_some_iff {p : RowIx → Bool} {q : RowIx} :
    rowList.find? p = some q ↔ p q = true ∧ ∀ i : RowIx, i < q → p i = false := by
  rw [find?_eq_some_iff_of_ascending (by decide)]
  simp only [mem_rowList, true_and, true_implies]

/-! ### The switch control settled (R71, R76) -/

section
variable {cause : SwitchCause} {f : Slot} {s : State}

theorem settleFormat_armed (h : (s.format f).standby = .armed) : settleFormat cause s f = switchFormat f cause s :=
  if_pos h

/-- A probation in progress passes. -/
theorem settleFormat_probation (h : (s.format f).standby ≠ .armed) (hp : (s.format f).probation.isSome = true) :
    settleFormat cause s f = passProbation f s :=
  (if_neg h).trans (if_pos hp)

/-- A settled format slot stays. -/
theorem settleFormat_settled_same (h : (s.format f).standby ≠ .armed) (hp : (s.format f).probation = none) :
    settleFormat cause s f = s :=
  (if_neg h).trans (if_neg (by rw [hp]; exact nofun))

/-- The row that a format slot occupies has the same format while the switch control is settled. -/
theorem settleFormats_row {fs : List Slot} {t : Trunk} {r : RowIx} {x : Row} (h : s.row t r = some x) :
    ∃ y, (fs.foldl (settleFormat cause) s).row t r = some y ∧ y.format = x.format := by
  have keys := (settleFormats_keeps cause fs s).keys t r
  rw [h, Option.map_some, Option.map_eq_some_iff] at keys
  obtain ⟨y, hy, key⟩ := keys
  exact ⟨y, hy, congrArg Prod.fst key⟩

end

/-! ### BIND_SOURCE (R22, R162) -/

section
variable {o : QueuedOrder} {s u : State} {reply : Reply} {t : Trunk} {r : RowIx} {f : Slot} {tag : Nat}

theorem exec_bindSource (h : s.Carries 0x02 o) (hp : bindSourceOrder o s = (u, reply)) :
    exec .bindSource s = .next (answer o reply u.draw) :=
  congrArg Host.Outcome.next (carryOut_eq h hp)

/-- BIND_SOURCE of a trunk, a row and a format slot that exist. -/
theorem bindSourceOrder_bindTo (h0 : o.arg 0 = t.val) (h1 : o.arg 1 = r.val) (h2 : o.arg 2 = f.val) :
    bindSourceOrder o s = bindTo t r f (o.arg 3) s := by
  simp only [bindSourceOrder, h0, h1, h2, trunkOf_val, rowOf_val, slotOf_val]

/-- Rows 1 to 3 of an untagged trunk. -/
theorem bindTo_untagged (hp : (s.receiver t).profile.tagPos = 0) (hr : r ≠ 0) :
    bindTo t r f tag s = (s, Reply.one .badArgument 1 []) :=
  if_pos ⟨hp, hr⟩

/-- A tag wider than the words of the trunk. -/
theorem bindTo_wide (hp : (s.receiver t).profile.tagPos ≠ 0) (ht : 2 ^ (s.receiver t).profile.width ≤ tag) :
    bindTo t r f tag s = (s, Reply.one .badArgument 3 []) :=
  (if_neg fun h => hp h.1).trans (if_pos ⟨hp, ht⟩)

section
variable (hr : (s.receiver t).profile.tagPos = 0 → r = 0)
  (ht : (s.receiver t).profile.tagPos ≠ 0 → tag < 2 ^ (s.receiver t).profile.width)
include hr ht

/-- An occupied row. -/
theorem bindTo_occupied {x : Row} (hx : s.row t r = some x) :
    bindTo t r f tag s = (s, Reply.one .sourceOccupied (numWord x.format.val) []) := by
  have first : ¬ ((s.receiver t).profile.tagPos = 0 ∧ r ≠ 0) := fun h => h.2 (hr h.1)
  have narrow : ¬ ((s.receiver t).profile.tagPos ≠ 0 ∧ 2 ^ (s.receiver t).profile.width ≤ tag) :=
    fun h => Nat.not_lt.mpr h.2 (ht h.1)
  simp only [bindTo, if_neg first, if_neg narrow, hx]

/-- A vacant row: the tag, the format and the positions, in this order. -/
theorem bindTo_vacant (hx : s.row t r = none) {held : Option RowIx}
    (hh : held = if (s.receiver t).profile.tagPos = 0 then none else tagHolder t r tag s) :
    (∀ q, held = some q → bindTo t r f tag s = (s, Reply.one .tagInUse (numWord q.val) [])) ∧
    (held = none →
      (∀ t' r', s.boundRow f = some (t', r') →
        bindTo t r f tag s = (s, Reply.one .formatInUse (numWord (t'.val * 4 + r'.val)) [])) ∧
      (s.boundRow f = none →
        (∀ d, positionFailure (s.receiver t).profile (s.activeBank f) = some d →
          bindTo t r f tag s = (s, Reply.one .positionConflict d [])) ∧
        (positionFailure (s.receiver t).profile (s.activeBank f) = none →
          bindTo t r f tag s =
            (s.setRow t r (some (boundRowOf
              (if (s.receiver t).profile.tagPos = 0 then none else some tag) f (s.activeBank f).committed)),
              Reply.one .ok (numWord f.val) [boolWord (s.activeBank f).committed])))) := by
  have first : ¬ ((s.receiver t).profile.tagPos = 0 ∧ r ≠ 0) := fun h => h.2 (hr h.1)
  have narrow : ¬ ((s.receiver t).profile.tagPos ≠ 0 ∧ 2 ^ (s.receiver t).profile.width ≤ tag) :=
    fun h => Nat.not_lt.mpr h.2 (ht h.1)
  simp only [bindTo, if_neg first, if_neg narrow, hx, ← hh]
  refine ⟨fun q hq => ?_, fun hq => ⟨fun t' r' hb => ?_, fun hb => ⟨fun d hd => ?_, fun hd => ?_⟩⟩⟩
  · simp only [hq]
  · simp only [hq, hb]
  · simp only [hq, hb, hd]
  · simp only [hq, hb, hd]
    cases (s.activeBank f).committed <;> rfl

end

/-- The first row whose tag is in use. -/
theorem tagHolder_eq_some {q : RowIx} {y : Row} (hr : s.row t r = none) (hq : s.row t q = some y)
    (hy : y.tag = some tag)
    (first : ∀ (q' : RowIx) (z : Row), q' < q → s.row t q' = some z → z.tag ≠ some tag) :
    tagHolder t r tag s = some q := by
  have other : q ≠ r := fun e => by
    rw [e, hr] at hq
    cases hq
  rw [tagHolder, find?_rowList_eq_some_iff]
  constructor
  · rw [Bool.and_eq_true, bne_iff_ne]
    exact ⟨other, hasTag_iff.mpr ⟨y, hq, hy⟩⟩
  · intro i hi
    rw [Bool.and_eq_false_iff]
    exact .inr (Bool.eq_false_iff.mpr fun h => by
      obtain ⟨z, hz, hv⟩ := hasTag_iff.mp h
      exact first i z hi hz hv)

/-- No row whose tag is in use. -/
theorem tagHolder_eq_none (h : ∀ (q : RowIx) (y : Row), s.row t q = some y → y.tag ≠ some tag) :
    tagHolder t r tag s = none := by
  rw [tagHolder, List.find?_eq_none]
  intro q _ hq
  obtain ⟨y, hy, hv⟩ := hasTag_iff.mp (Bool.and_eq_true_iff.mp hq).2
  exact h q y hy hv

/-! ### UNBIND_SOURCE (R23, R163) -/

/-- UNBIND_SOURCE refused. -/
theorem exec_unbindSource_error (h : s.Carries 0x03 o) (k : Nat) (he : unbindTarget o s = .error reply) :
    exec (.unbindSource k) s = .next (answer o reply s.draw) :=
  congrArg Host.Outcome.next ((carryOutSettling_carries h).1 reply (by rw [unbindCheck, he]; rfl))

/-- UNBIND_SOURCE begun makes its first steps. -/
theorem exec_unbindSource_begun (h : s.Carries 0x03 o) (k : Nat) {x : Row}
    (ht : unbindTarget o s = .ok (t, r, x)) :
    exec (.unbindSource k) s = .next (runSettling .unbind unbindFinish o k [x.format] s) := by
  have concerned : inSlotOrder [x.format] = [x.format] := by
    generalize x.format = f
    decide +revert
  have run := (carryOutSettling_carries (n := k) (cause := .unbind) (check := unbindCheck) (finish := unbindFinish) h).2
    [x.format] (by rw [unbindCheck, ht]; rfl)
  rw [concerned] at run
  exact congrArg Host.Outcome.next run

/-- UNBIND_SOURCE in part goes on. -/
theorem exec_unbindSource_left {left : List Slot} (h : s.orders.engine = .settling o left) (hc : o.code = 0x03)
    (k : Nat) : exec (.unbindSource k) s = .next (runSettling .unbind unbindFinish o k left s) := by
  have run : carryOutSettling k 0x03 .unbind unbindCheck unbindFinish s =
      runSettling .unbind unbindFinish o k left s := by
    simp only [carryOutSettling, h, hc, if_true]
  exact congrArg Host.Outcome.next run

/-- The last effect of UNBIND_SOURCE. -/
theorem unbindFinish_ok {x : Row} (ht : unbindTarget o s = .ok (t, r, x)) :
    unbindFinish o s =
      ((breakContexts x.format s).setRow t r none, Reply.one .ok (numWord x.format.val) []) := by
  simp only [unbindFinish, ht]

end

/-- Settles O43: the switch control settled, the words in their order, the row filled, and the row vacated. -/
theorem sourcesBoundAndUnbound : Obligations.SourcesBoundAndUnbound := by
  unfold Obligations.SourcesBoundAndUnbound
  refine ⟨?settled, ?words, ?sources⟩
  case settled =>
    intro cause f s u hu
    refine ⟨settleFormat_armed, fun ha hp => ?_, settleFormat_settled_same⟩
    have letter : numWord (s.format f).active.letter = if (s.format f).active = .a then 0x000A else 0x000B := by
      cases (s.format f).active <;> rfl
    rw [settleFormat_probation ha hp, passProbation_eq, ← hu, letter, hu, State.boundCycleCount, setFormat_boundRow]
    rfl
  case words =>
    intro o s code k c hc h
    simp only [List.mem_cons, Prod.mk.injEq, List.not_mem_nil, or_false] at hc
    rcases hc with ⟨rfl, rfl⟩ | ⟨rfl, rfl⟩
    · refine ⟨fun h0 => ?_, fun h0 h1 => ?_, fun _ h0 h1 h2 => ?_⟩
      · exact exec_bindSource h (by simp only [bindSourceOrder, trunkOf_eq_none h0]; rfl)
      · exact exec_bindSource h (by simp only [bindSourceOrder, trunkOf, dif_pos h0, rowOf_eq_none h1]; rfl)
      · exact exec_bindSource h
          (by simp only [bindSourceOrder, trunkOf, dif_pos h0, rowOf, dif_pos h1, slotOf_eq_none h2]; rfl)
    · refine ⟨fun h0 => ?_, fun h0 h1 => ?_, fun hc => absurd hc (by decide)⟩
      · exact exec_unbindSource_error h k (by simp only [unbindTarget, trunkOf_eq_none h0]; rfl)
      · exact exec_unbindSource_error h k
          (by simp only [unbindTarget, trunkOf, dif_pos h0, rowOf_eq_none h1]; rfl)
  case sources =>
    intro o s t r f p hp h0 h1
    rw [hp]
    refine ⟨?badWords, ?bound, ?unbound, ?left⟩
    case badWords =>
      intro h h2
      exact ⟨fun ht hr => exec_bindSource h ((bindSourceOrder_bindTo h0 h1 h2).trans (bindTo_untagged ht hr)),
        fun ht hw => exec_bindSource h ((bindSourceOrder_bindTo h0 h1 h2).trans (bindTo_wide ht hw))⟩
    case bound =>
      intro h h2 hr ht
      have order := bindSourceOrder_bindTo (s := s) h0 h1 h2
      refine ⟨fun x hx => exec_bindSource h (order.trans (bindTo_occupied hr ht hx)), ?tag, fun hx unused => ?_⟩
      case tag =>
        intro q y hx tagged hq hy first
        have held := tagHolder_eq_some hx hq hy first
        exact exec_bindSource h (order.trans ((bindTo_vacant hr ht hx rfl).1 q ((if_neg tagged).trans held)))
      have held : (if (s.receiver t).profile.tagPos = 0 then none else tagHolder t r (o.arg 3) s) = none := by
        split
        next => rfl
        next tagged => exact tagHolder_eq_none (unused tagged)
      obtain ⟨inUse, placed⟩ := (bindTo_vacant (f := f) hr ht hx rfl).2 held
      refine ⟨fun t' r' hb => exec_bindSource h (order.trans (inUse t' r' hb)),
        fun d hb hd => exec_bindSource h (order.trans ((placed hb).1 d hd)), fun hb hd => ?_⟩
      exact exec_bindSource h (order.trans ((placed hb).2 hd))
    case unbound =>
      intro h k
      constructor
      case left =>
        intro hx
        exact exec_unbindSource_error h k (by simp only [unbindTarget, h0, h1, trunkOf_val, rowOf_val, hx]; rfl)
      case right =>
        intro x hx
        have target : unbindTarget o s = .ok (t, r, x) :=
          unbindTarget_ok.mpr ⟨by rw [h0, trunkOf_val], by rw [h1, rowOf_val], hx⟩
        rw [exec_unbindSource_begun h k target]
        refine ⟨fun hk => by rw [hk]; rfl, fun hk => by rw [hk]; rfl, fun hk => ?_⟩
        obtain ⟨y, hy, format⟩ := settleFormats_row (cause := .unbind) (fs := [x.format]) hx
        have later : unbindTarget o ([x.format].foldl (settleFormat .unbind) s) = .ok (t, r, y) :=
          unbindTarget_ok.mpr ⟨by rw [h0, trunkOf_val], by rw [h1, rowOf_val], hy⟩
        rw [runSettling_all .unbind unbindFinish o k [x.format] s _ hk rfl, unbindFinish_ok later, format]
        rfl
    case left =>
      intro k left he hc
      rw [exec_unbindSource_left he hc]
      refine ⟨fun hk => congrArg Host.Outcome.next (runSettling_part .unbind unbindFinish o k left s hk), ?_⟩
      intro u x hk hu hx
      have target : unbindTarget o u = .ok (t, r, x) :=
        unbindTarget_ok.mpr ⟨by rw [h0, trunkOf_val], by rw [h1, rowOf_val], hx⟩
      rw [runSettling_all .unbind unbindFinish o k left s u hk hu, unbindFinish_ok target]
      rfl

end Sys2Proof.Machine
end

section
/-! PROOFS. SET_TRUNK: its words, the banks that do not fit, and its steps; and from these the obligation O42. -/

namespace Sys2Proof.Machine

/-! ### The words of SET_TRUNK (R160 (1)) -/

/-- The pattern of three words as a number. -/
theorem pattern_toNat (w5 w6 w7 : Word) :
    (w5 ++ w6 ++ w7 : BitVec 48).toNat = w5.toNat * 2 ^ 32 + w6.toNat * 2 ^ 16 + w7.toNat := by
  rw [toNat_append_eq, toNat_append_eq]
  ring

/-- The profile that words 1 to 11 carry. -/
theorem profileOf_eq (o : QueuedOrder) :
    profileOf o =
      { enable := decide (o.arg 1 = 1), width := o.arg 2, words := o.arg 3, syncWords := o.arg 4,
        pattern := BitVec.ofNat 48 (o.arg 5 * 2 ^ 32 + o.arg 6 * 2 ^ 16 + o.arg 7), tolerance := o.arg 8,
        verify := o.arg 9, flywheel := o.arg 10, tagPos := o.arg 11 } := by
  have pattern : (o.word 5 ++ o.word 6 ++ o.word 7 : BitVec 48) =
      BitVec.ofNat 48 (o.arg 5 * 2 ^ 32 + o.arg 6 * 2 ^ 16 + o.arg 7) := by
    rw [QueuedOrder.arg, QueuedOrder.arg, QueuedOrder.arg, ← pattern_toNat, BitVec.ofNat_toNat, BitVec.setWidth_eq]
  rw [profileOf, pattern]
  rfl

theorem within_eq_decide (n lo hi : Nat) : within n lo hi = decide (lo ≤ n ∧ n ≤ hi) := by
  rw [Bool.eq_iff_iff, within_iff, decide_eq_true_iff]

/-- The words of SET_TRUNK in their ranges. -/
theorem setTrunkRanges_eq (o : QueuedOrder) :
    setTrunkRanges o =
      [ (0, decide (o.arg 0 ≤ 3)), (1, decide (o.arg 1 ≤ 1)), (2, decide (8 ≤ o.arg 2 ∧ o.arg 2 ≤ 16)),
        (3, decide (4 ≤ o.arg 3 ∧ o.arg 3 ≤ 1024)),
        (4, decide (1 ≤ o.arg 4 ∧ o.arg 4 ≤ 4 ∧ o.arg 4 < o.arg 3 ∧ 16 ≤ o.arg 4 * o.arg 2 ∧
          o.arg 4 * o.arg 2 ≤ 48)),
        (5, decide (o.arg 5 * 2 ^ 32 + o.arg 6 * 2 ^ 16 + o.arg 7 < 2 ^ (o.arg 4 * o.arg 2))),
        (8, decide (o.arg 8 ≤ 7)), (9, decide (1 ≤ o.arg 9 ∧ o.arg 9 ≤ 8)),
        (10, decide (1 ≤ o.arg 10 ∧ o.arg 10 ≤ 16)),
        (11, decide (o.arg 11 = 0 ∨ (o.arg 4 < o.arg 11 ∧ o.arg 11 ≤ o.arg 3))) ] := by
  have below : ∀ n hi : Nat, within n 0 hi = decide (n ≤ hi) := fun n hi => by simp [within_eq_decide]
  have sync : (within (o.arg 4) 1 4 && decide (o.arg 4 < o.arg 3) && within (o.arg 4 * o.arg 2) 16 48) =
      decide (1 ≤ o.arg 4 ∧ o.arg 4 ≤ 4 ∧ o.arg 4 < o.arg 3 ∧ 16 ≤ o.arg 4 * o.arg 2 ∧
        o.arg 4 * o.arg 2 ≤ 48) := by
    rw [Bool.eq_iff_iff, Bool.and_eq_true, Bool.and_eq_true, within_iff, within_iff, decide_eq_true_iff,
      decide_eq_true_iff, and_assoc, and_assoc]
  have tag : (o.arg 11 == 0 || within (o.arg 11) (o.arg 4 + 1) (o.arg 3)) =
      decide (o.arg 11 = 0 ∨ (o.arg 4 < o.arg 11 ∧ o.arg 11 ≤ o.arg 3)) := by
    rw [Bool.eq_iff_iff, Bool.or_eq_true, beq_iff_eq, within_iff, decide_eq_true_iff, Nat.succ_le_iff]
  have pattern : (profileOf o).pattern.toNat = o.arg 5 * 2 ^ 32 + o.arg 6 * 2 ^ 16 + o.arg 7 :=
    pattern_toNat _ _ _
  have bits : (profileOf o).patternBits = o.arg 4 * o.arg 2 := rfl
  rw [← sync, ← tag, ← pattern, ← bits, ← below, ← below, ← below, ← within_eq_decide, ← within_eq_decide,
    ← within_eq_decide, ← within_eq_decide]
  rfl

/-! ### Rows in use, and banks that do not fit (R160 (2) and (3)) -/

section
variable {t : Trunk} {p : Profile} {s : State}

/-- The lowest row that an untagged profile leaves without its tag. -/
theorem untaggedFailure_eq_some_iff {r : RowIx} :
    untaggedFailure t p s = some r ↔
      p.tagPos = 0 ∧ r ≠ 0 ∧ (s.row t r).isSome = true ∧
        ∀ q : RowIx, q ≠ 0 → q < r → (s.row t q).isSome = false := by
  have upper : ∀ q : RowIx, q ∈ ([1, 2, 3] : List RowIx) ↔ q ≠ 0 := by decide
  rw [untaggedFailure, Option.ite_none_right_eq_some, find?_eq_some_iff_of_ascending (by decide)]
  simp only [upper]

/-- The same rows occupied, the same row in the way of an untagged profile. -/
theorem untaggedFailure_of_keys {u : State} (h : ∀ t r, (u.row t r).map Row.key = (s.row t r).map Row.key) :
    untaggedFailure t p u = untaggedFailure t p s := by
  have occupied : ∀ r, (u.row t r).isSome = (s.row t r).isSome := fun r => by
    simpa only [Option.isSome_map] using congrArg Option.isSome (h t r)
  simp only [untaggedFailure, occupied]

/-- The first bank in use of a format slot that does not fit a profile. -/
def bankFailure (p : Profile) (s : State) (f : Slot) : Option (Word × Slot × BankId) :=
  (banksInUse (s.format f)).findSome? (fun x => (positionFailure p x.2).map (fun d => (d, f, x.1)))

/-- The banks in use of a format slot that fit. -/
theorem bankFailure_eq_none_iff {f : Slot} :
    bankFailure p s f = none ↔
      positionFailure p (s.activeBank f) = none ∧
        ((s.format f).standby = .armed → positionFailure p (s.format f).standbyBank = none) := by
  unfold bankFailure banksInUse State.activeBank
  by_cases armed : (s.format f).standby = .armed <;> simp [armed]

/-- The bank in use of a format slot that does not fit: the active one before an ARMED standby. -/
theorem bankFailure_eq_some_iff {f g : Slot} {d : Word} {bank : BankId} :
    bankFailure p s f = some (d, g, bank) ↔
      f = g ∧
        ((bank = (s.format g).active ∧ positionFailure p (s.activeBank g) = some d) ∨
          (bank ≠ (s.format g).active ∧ positionFailure p (s.activeBank g) = none ∧
            (s.format g).standby = .armed ∧ positionFailure p (s.format g).standbyBank = some d)) := by
  have other : ∀ k l : BankId, l ≠ k ↔ k.other = l := by
    intro k l
    cases k <;> cases l <;> decide
  unfold bankFailure banksInUse State.activeBank
  rw [List.singleton_append, List.findSome?_cons]
  cases hp : positionFailure p (s.format f).activeBank with
  | some e =>
    simp only [Option.map_some, Option.some.injEq, Prod.mk.injEq]
    constructor
    · rintro ⟨rfl, rfl, rfl⟩
      exact ⟨rfl, .inl ⟨rfl, hp⟩⟩
    · rintro ⟨rfl, ⟨rfl, hd⟩ | ⟨-, hn, -⟩⟩
      · exact ⟨Option.some.inj (hp.symm.trans hd), rfl, rfl⟩
      · cases hp.symm.trans hn
  | none =>
    rw [Option.map_none, other]
    by_cases armed : (s.format f).standby = .armed
    case neg =>
      rw [if_neg armed]
      refine iff_of_false nofun ?_
      rintro ⟨rfl, ⟨-, hd⟩ | ⟨-, -, ha, -⟩⟩
      · cases hp.symm.trans hd
      · exact armed ha
    case pos =>
      simp only [if_pos armed, List.findSome?_cons, List.findSome?_nil]
      cases hs : positionFailure p (s.format f).standbyBank with
      | none =>
        refine iff_of_false nofun ?_
        rintro ⟨rfl, ⟨-, hd⟩ | ⟨-, -, -, hd⟩⟩
        · cases hp.symm.trans hd
        · cases hs.symm.trans hd
      | some e =>
        simp only [Option.map_some, Option.some.injEq, Prod.mk.injEq]
        constructor
        · rintro ⟨rfl, rfl, hb⟩
          exact ⟨rfl, .inr ⟨hb, hp, armed, hs⟩⟩
        · rintro ⟨rfl, ⟨-, hd⟩ | ⟨hb, -, -, hd⟩⟩
          · cases hp.symm.trans hd
          · exact ⟨Option.some.inj (hs.symm.trans hd), rfl, hb⟩

/-- The first value of the items that a list keeps. -/
theorem findSome?_filterMap {α β γ : Type} (f : α → Option β) (g : β → Option γ) (xs : List α) :
    (xs.filterMap f).findSome? g = xs.findSome? (fun x => (f x).bind g) := by
  induction xs with
  | nil => rfl
  | cons x xs ih =>
    cases hx : f x <;> simp [List.findSome?_cons, hx, ih]

/-- The first bank in use on a trunk that does not fit a profile, row by row. -/
theorem trunkPositionFailure_eq :
    trunkPositionFailure t p s =
      rowList.findSome? (fun r => ((s.row t r).map (fun x => x.format)).bind (bankFailure p s)) :=
  findSome?_filterMap _ _ _

/-- The banks in use of the format slot of a row fit. -/
theorem rowFailure_eq_none_iff {r : RowIx} :
    ((s.row t r).map (fun x => x.format)).bind (bankFailure p s) = none ↔
      ∀ x : Row, s.row t r = some x →
        positionFailure p (s.activeBank x.format) = none ∧
          ((s.format x.format).standby = .armed → positionFailure p (s.format x.format).standbyBank = none) := by
  cases hx : s.row t r with
  | none => simp
  | some x => simp [bankFailure_eq_none_iff]

/-- The banks in use on a trunk fit. -/
theorem trunkPositionFailure_eq_none_iff :
    trunkPositionFailure t p s = none ↔
      ∀ (r : RowIx) (x : Row), s.row t r = some x →
        positionFailure p (s.activeBank x.format) = none ∧
        ((s.format x.format).standby = .armed → positionFailure p (s.format x.format).standbyBank = none) := by
  rw [trunkPositionFailure_eq, List.findSome?_eq_none_iff]
  simp only [mem_rowList, true_implies, rowFailure_eq_none_iff]

/-- The first bank in use on a trunk that does not fit. -/
theorem trunkPositionFailure_eq_some_iff {d : Word} {f : Slot} {bank : BankId} :
    trunkPositionFailure t p s = some (d, f, bank) ↔
      ∃ (r : RowIx) (x : Row), s.row t r = some x ∧ x.format = f ∧
        (∀ (q : RowIx) (y : Row), q < r → s.row t q = some y →
          positionFailure p (s.activeBank y.format) = none ∧
          ((s.format y.format).standby = .armed →
            positionFailure p (s.format y.format).standbyBank = none)) ∧
        ((bank = (s.format f).active ∧ positionFailure p (s.activeBank f) = some d) ∨
          (bank ≠ (s.format f).active ∧ positionFailure p (s.activeBank f) = none ∧
            (s.format f).standby = .armed ∧ positionFailure p (s.format f).standbyBank = some d)) := by
  rw [trunkPositionFailure_eq, findSome?_eq_some_iff_of_ascending (by decide)]
  simp only [mem_rowList, true_and, true_implies, rowFailure_eq_none_iff, Option.bind_eq_some_iff,
    Option.map_eq_some_iff, exists_exists_and_eq_and, bankFailure_eq_some_iff]
  constructor
  · rintro ⟨r, ⟨x, hx, hf, hb⟩, before⟩
    exact ⟨r, x, hx, hf, fun q y hq hy => before q hq y hy, hb⟩
  · rintro ⟨r, x, hx, hf, before, hb⟩
    exact ⟨r, ⟨x, hx, hf, hb⟩, fun q hq y hy => before q y hq hy⟩

/-- The format slots of the occupied rows of a trunk. -/
theorem mem_formatsOnTrunk {f : Slot} :
    f ∈ formatsOnTrunk t s ↔ ∃ (r : RowIx) (x : Row), s.row t r = some x ∧ x.format = f := by
  simp [formatsOnTrunk, mem_rowList]

/-- A list of format slots in slot order, by its members. -/
theorem inSlotOrder_eq {fs left : List Slot} (ordered : left.Pairwise (fun f g => f < g))
    (h : ∀ f, f ∈ left ↔ f ∈ fs) : inSlotOrder fs = left := by
  have sorted : (inSlotOrder fs).Pairwise (fun f g => f < g) :=
    List.Pairwise.filter _ (by decide : slotList.Pairwise (fun f g => f < g))
  refine List.Pairwise.eq_of_mem_iff sorted ordered fun f => ?_
  rw [h, List.mem_filter, List.contains_iff_mem]
  exact and_iff_right (mem_slotList f)

end

/-! ### The steps of SET_TRUNK (R161) -/

/-- A trunk reinitialized is in search when it is enabled, and off when it is not. -/
theorem reinitTrunk_sync (t : Trunk) (p : Profile) (arrived : Nat) (s : State) :
    ((reinitTrunk t p arrived s).receiver t).sync = if p.enable then .search else .off := by
  unfold reinitTrunk
  dsimp only
  generalize drainWaiting t s = s1
  generalize reinited : ((s1.receiver t).seen arrived).reinit p = y
  obtain ⟨c, counters⟩ := (onCounters_keeps t (fun _ => TrunkCounters.zero)
    (endDelivery t .order (changeReceiver t y s1))).receivers t
  obtain ⟨c', ended⟩ := (endDelivery_keeps t .order (changeReceiver t y s1)).receivers t
  have changed : (changeReceiver t y s1).receiver t = y := by
    rw [State.receiver, changeReceiver_receivers]
    exact setReceiver_receiver_same s1 t y
  rw [counters, ended, changed, ← reinited]
  rfl

section
variable {o : QueuedOrder} {s : State} {t : Trunk} {reply : Reply}

/-- SET_TRUNK refused. -/
theorem exec_setTrunk_error (h : s.Carries 0x01 o) (n k : Nat) (he : setTrunkCheck o s = .error reply) :
    exec (.setTrunk n k) s = .next (answer o reply s.draw) :=
  congrArg Host.Outcome.next ((carryOutSettling_carries h).1 reply he)

/-- SET_TRUNK begun makes its first steps. -/
theorem exec_setTrunk_begun (h : s.Carries 0x01 o) (n k : Nat) {fs : List Slot} (he : setTrunkCheck o s = .ok fs) :
    exec (.setTrunk n k) s = .next (runSettling .order (setTrunkFinish n) o k (inSlotOrder fs) s) :=
  congrArg Host.Outcome.next ((carryOutSettling_carries h).2 fs he)

/-- SET_TRUNK in part goes on. -/
theorem exec_setTrunk_left {left : List Slot} (h : s.orders.engine = .settling o left) (hc : o.code = 0x01)
    (n k : Nat) : exec (.setTrunk n k) s = .next (runSettling .order (setTrunkFinish n) o k left s) := by
  have run : carryOutSettling k 0x01 .order setTrunkCheck (setTrunkFinish n) s =
      runSettling .order (setTrunkFinish n) o k left s := by
    simp only [carryOutSettling, h, hc, if_true]
  exact congrArg Host.Outcome.next run

/-- The last effect of SET_TRUNK. -/
theorem setTrunkFinish_ok (n : Nat) (h : setTrunkTarget o s = .ok t) :
    setTrunkFinish n o s =
      (reinitTrunk t (profileOf o) n s,
        Reply.one .ok (numWord t.val) [if (profileOf o).enable then 1 else 0]) := by
  simp only [setTrunkFinish, h, reinitTrunk_sync]
  cases (profileOf o).enable <;> rfl

end

/-- Settles O42: the words, the rows and the banks that refuse it, and its steps. -/
theorem setTrunkCarriedOut : Obligations.SetTrunkCarriedOut := by
  unfold Obligations.SetTrunkCarriedOut
  intro n k o s t p hp
  have profile : p = profileOf o := hp.trans (profileOf_eq o).symm
  refine ⟨fun checks hchecks => by rw [hchecks, setTrunkRanges_eq]; rfl, ?badWord,
    fun r => untaggedFailure_eq_some_iff, trunkPositionFailure_eq_none_iff,
    fun d f bank => trunkPositionFailure_eq_some_iff, ?refused, ?steps⟩
  case badWord =>
    intro i h hi
    exact exec_setTrunk_error h n k (by simp only [setTrunkCheck, setTrunkTarget, hi]; rfl)
  case refused =>
    intro h hr h0
    rw [profile]
    constructor
    case left =>
      intro r hu
      exact exec_setTrunk_error h n k (by simp only [setTrunkCheck, setTrunkTarget, hr, h0, trunkOf_val, hu]; rfl)
    case right =>
      intro d f bank hu hf
      exact exec_setTrunk_error h n k
        (by simp only [setTrunkCheck, setTrunkTarget, hr, h0, trunkOf_val, hu, hf]; rfl)
  case steps =>
    intro left h0 hr hu began
    rw [profile] at hu began ⊢
    have target : ∀ u : State, untaggedFailure t (profileOf o) u = none → setTrunkTarget o u = .ok t :=
      fun u hu => setTrunkTarget_ok.mpr ⟨hr, by rw [h0, trunkOf_val], hu⟩
    have run : exec (.setTrunk n k) s = .next (runSettling .order (setTrunkFinish n) o k left s) := by
      rcases began with ⟨h, hf, ordered, mem⟩ | ⟨he, hc⟩
      · have checked : setTrunkCheck o s = .ok (formatsOnTrunk t s) := by
          simp only [setTrunkCheck, target s hu, hf]
        rw [exec_setTrunk_begun h n k checked,
          inSlotOrder_eq ordered fun f => (mem f).trans mem_formatsOnTrunk.symm]
      · exact exec_setTrunk_left he hc n k
    rw [run]
    refine ⟨fun hk => congrArg Host.Outcome.next (runSettling_part .order _ o k left s hk), fun hk => ?_⟩
    have settled := target (left.foldl (settleFormat .order) s)
      ((untaggedFailure_of_keys (settleFormats_keeps .order left s).keys).trans hu)
    rw [runSettling_all .order (setTrunkFinish n) o k left s _ hk rfl, setTrunkFinish_ok n settled]
    rfl

end Sys2Proof.Machine
end

section
/-! PROOFS. Lists read in records, and entries written in the words they are staged in. -/

namespace Sys2Proof.Machine

/-! ### A list in pieces (R167) -/

section
variable {α : Type} {n : Nat}

/-- Piece `k` of a list. -/
theorem getElem?_piecesOf (fuel : Nat) : ∀ (i k : Nat) (xs : List α),
    (piecesOf n fuel i xs)[k]? =
      if k < fuel ∧ n * k < xs.length then some (i + n * k, (xs.drop (n * k)).take n) else none := by
  induction fuel with
  | zero => simp [piecesOf]
  | succ fuel ih =>
    intro i k xs
    cases xs with
    | nil => simp [piecesOf]
    | cons x xs =>
      rw [piecesOf]
      cases k with
      | zero => simp
      | succ k =>
        rw [List.getElem?_cons_succ, ih, List.length_drop, List.drop_drop]
        have next : n + n * k = n * (k + 1) := by rw [Nat.mul_succ, Nat.add_comm]
        have length : n * k < (x :: xs).length - n ↔ n * (k + 1) < (x :: xs).length := by omega
        simp only [next, length, Nat.succ_lt_succ_iff, Nat.add_assoc]

/-- As many pieces as the list needs. -/
theorem length_piecesOf (hn : 0 < n) (fuel : Nat) : ∀ (i : Nat) (xs : List α), xs.length ≤ n * fuel →
    (piecesOf n fuel i xs).length = (xs.length + (n - 1)) / n := by
  induction fuel with
  | zero =>
    intro i xs h
    have empty : xs = [] := List.length_eq_zero_iff.mp (Nat.le_zero.mp h)
    rw [empty, List.length_nil, Nat.zero_add, Nat.div_eq_of_lt (Nat.sub_lt hn Nat.one_pos)]
    rfl
  | succ fuel ih =>
    intro i xs h
    cases xs with
    | nil =>
      rw [List.length_nil, Nat.zero_add, Nat.div_eq_of_lt (Nat.sub_lt hn Nat.one_pos)]
      rfl
    | cons x xs =>
      rw [Nat.mul_succ] at h
      rw [piecesOf, List.length_cons, ih _ _ (by rw [List.length_drop]; omega), List.length_drop]
      by_cases more : (x :: xs).length ≤ n
      case pos =>
        rw [Nat.sub_eq_zero_of_le more, Nat.zero_add, Nat.div_eq_of_lt (Nat.sub_lt hn Nat.one_pos)]
        have one : (x :: xs).length + (n - 1) = n + xs.length := by
          rw [List.length_cons]
          omega
        rw [one, Nat.add_div_left _ hn, Nat.div_eq_of_lt (by rw [List.length_cons] at more; omega)]
      case neg =>
        rw [← Nat.add_div_right _ hn]
        congr 1
        omega

/-- Not more pieces than the records of a reply. -/
theorem length_piecesOf_le (fuel : Nat) : ∀ (i : Nat) (xs : List α), (piecesOf n fuel i xs).length ≤ fuel := by
  induction fuel with
  | zero => exact fun _ _ => Nat.le_refl 0
  | succ fuel ih =>
    intro i xs
    cases xs with
    | nil => exact Nat.zero_le _
    | cons x xs => exact Nat.succ_le_succ (ih _ _)

/-- No piece has more items than a record holds. -/
theorem length_of_mem_piecesOf (fuel : Nat) : ∀ {i : Nat} {xs : List α} {p : Nat × List α},
    p ∈ piecesOf n fuel i xs → p.2.length ≤ n := by
  induction fuel with
  | zero => exact nofun
  | succ fuel ih =>
    intro i xs p hp
    cases xs with
    | nil => cases hp
    | cons x xs =>
      rw [piecesOf, List.mem_cons] at hp
      rcases hp with rfl | hp
      · exact List.length_take_le n _
      · exact ih hp

/-- Items of as many words each. -/
theorem length_flatMap_words {words : α → List Word} {w : Nat} (h : ∀ x, (words x).length = w) (xs : List α) :
    (xs.flatMap words).length = xs.length * w := by
  induction xs with
  | nil => simp
  | cons x xs ih => rw [List.flatMap_cons, List.length_append, ih, h, List.length_cons, Nat.succ_mul, Nat.add_comm]

variable {words : α → List Word} {start count draws : Nat} {xs read : List α}

/-- A reading of no item. -/
theorem listBodies_of_nil (hr : read = (xs.drop start).take count) (h : read = []) :
    listBodies n words start count draws xs = [[Config.emptyReadIndex draws, numWord xs.length]] := by
  rw [h] at hr
  simp only [listBodies, ← hr]

/-- A reading of some items. -/
theorem listBodies_of_ne_nil (hr : read = (xs.drop start).take count) (h : read ≠ []) :
    listBodies n words start count draws xs =
      (piecesOf n 64 start read).map (fun p => numWord p.1 :: numWord xs.length :: p.2.flatMap words) := by
  obtain ⟨y, ys, rfl⟩ := List.exists_cons_of_ne_nil h
  simp only [listBodies, ← hr]

/-- A reading of some items, record by record. -/
theorem listBodies_records (hn : 0 < n) (hc : count ≤ n * 64) (hr : read = (xs.drop start).take count)
    (h : read ≠ []) :
    (listBodies n words start count draws xs).length = (read.length + (n - 1)) / n ∧
      ∀ k, k < (listBodies n words start count draws xs).length →
        (listBodies n words start count draws xs)[k]? =
          some (numWord (start + n * k) :: numWord xs.length :: ((read.drop (n * k)).take n).flatMap words) := by
  have short : read.length ≤ n * 64 := by
    rw [hr]
    exact (List.length_take_le count _).trans hc
  rw [listBodies_of_ne_nil hr h, List.length_map]
  refine ⟨length_piecesOf hn 64 start read short, fun k hk => ?_⟩
  rw [List.getElem?_map, List.getElem?_eq_getElem hk, Option.map_some]
  have piece := getElem?_piecesOf (n := n) 64 start k read
  rw [List.getElem?_eq_getElem hk] at piece
  split at piece
  next => rw [Option.some.inj piece]
  next => cases piece

/-- The records of a reading: at most 64, none longer than its items make it. -/
theorem listBodies_size {w : Nat} (hw : ∀ x, (words x).length = w) :
    (listBodies n words start count draws xs).length ≤ 64 ∧
      ∀ body ∈ listBodies n words start count draws xs, body.length ≤ n * w + 2 := by
  generalize hr : (xs.drop start).take count = read
  by_cases h : read = []
  case pos =>
    rw [listBodies_of_nil hr.symm h]
    refine ⟨Nat.one_le_of_lt (by decide : 1 < 64), fun body hb => ?_⟩
    rw [List.mem_singleton.mp hb]
    exact Nat.le_add_left 2 _
  case neg =>
    rw [listBodies_of_ne_nil hr.symm h, List.length_map]
    refine ⟨length_piecesOf_le 64 start read, fun body hb => ?_⟩
    obtain ⟨p, hp, rfl⟩ := List.mem_map.mp hb
    rw [List.length_cons, List.length_cons, length_flatMap_words hw]
    exact Nat.add_le_add_right (Nat.mul_le_mul_right w (length_of_mem_piecesOf 64 hp)) 2

end

/-! ### Entries in words (R178) -/

/-- A slot entry reads back from the words it is written in. -/
theorem slotEntryOf_words {e : SlotEntry} (h : e.InRange) :
    ∃ w0 w1 w2 : Word, slotEntryWords e = [w0, w1, w2] ∧ slotEntryOf w0 w1 w2 = some e := by
  obtain ⟨pos, interval, offset, param, piece⟩ := e
  obtain ⟨hlo, hhi, hone, hmany, hoff, hparam, hpiece⟩ := h
  dsimp only at hlo hhi hone hmany hoff hparam hpiece
  have word0 : (0#5 ++ BitVec.ofNat 11 pos : BitVec 16).toNat = pos := by
    rw [toNat_append_eq, BitVec.toNat_ofNat, BitVec.toNat_ofNat]
    omega
  have word1 : (BitVec.ofNat 8 (interval - 1) ++ BitVec.ofNat 8 offset : BitVec 16).toNat =
      (interval - 1) * 256 + offset := by
    rw [toNat_append_eq, BitVec.toNat_ofNat, BitVec.toNat_ofNat]
    omega
  have word2 : (BitVec.ofNat 2 piece ++ 0#2 ++ BitVec.ofNat 12 param : BitVec 16).toNat =
      piece * 16384 + param := by
    rw [toNat_append_eq, toNat_append_eq, BitVec.toNat_ofNat, BitVec.toNat_ofNat, BitVec.toNat_ofNat]
    omega
  refine ⟨_, _, _, rfl, slotEntryOf_eq_some_iff.mpr ?_⟩
  simp only [← field_eq_zero_iff, field_eq, word0, word1, word2, SlotEntry.mk.injEq]
  omega

/-- Word 1 of a definition as a number. -/
theorem paramWord1_toNat (signed part : Bool) (link mode persistence : Nat) (hl : link < 2) (hm : mode < 4)
    (hp : persistence < 256) :
    (BitVec.ofBool signed ++ BitVec.ofNat 1 link ++ BitVec.ofBool part ++ 0#3 ++ BitVec.ofNat 2 mode ++
      BitVec.ofNat 8 persistence : BitVec 16).toNat =
      signed.toNat * 32768 + link * 16384 + part.toNat * 8192 + mode * 256 + persistence := by
  simp only [toNat_append_eq, BitVec.toNat_ofNat, BitVec.toNat_ofBool]
  omega

/-- The 24 bits of a bound, cut into words and put together again. -/
theorem lo_append (lo hi : BitVec 24) :
    lo.extractLsb' 8 16 ++ (lo.extractLsb' 0 8 ++ hi.extractLsb' 16 8 : BitVec 16).extractLsb' 8 8 = lo := by
  apply BitVec.eq_of_toNat_eq
  have bound := lo.isLt
  have bound' := hi.isLt
  simp only [toNat_append_eq, BitVec.extractLsb'_toNat, Nat.shiftRight_eq_div_pow]
  omega

theorem hi_append (lo hi : BitVec 24) :
    (lo.extractLsb' 0 8 ++ hi.extractLsb' 16 8 : BitVec 16).extractLsb' 0 8 ++ hi.extractLsb' 0 16 = hi := by
  apply BitVec.eq_of_toNat_eq
  have bound := lo.isLt
  have bound' := hi.isLt
  simp only [toNat_append_eq, BitVec.extractLsb'_toNat, Nat.shiftRight_eq_div_pow]
  omega

/-- A bound in range is its 24 bits, read signed or unsigned (R46). -/
theorem bound_ofInt {signed : Bool} {x : Int} (hlo : (if signed then (-8388608 : Int) else 0) ≤ x)
    (hhi : x ≤ (if signed then 8388607 else 16777215 : Int)) :
    (if signed then (BitVec.ofInt 24 x).toInt else (BitVec.ofInt 24 x).toNat) = x := by
  cases signed with
  | true =>
    rw [if_pos rfl] at hlo hhi ⊢
    rw [BitVec.toInt_ofInt, Int.bmod_eq_of_le] <;> omega
  | false =>
    rw [if_neg Bool.false_ne_true] at hlo hhi ⊢
    rw [BitVec.toNat_ofInt]
    omega

/-- The parts of word 1 of a definition. -/
theorem paramWord1_parts {w : Word} {signed part : Bool} {link mode persistence : Nat} (hl : link < 2)
    (hm : mode < 4) (hp : persistence < 256)
    (h : w.toNat = signed.toNat * 32768 + link * 16384 + part.toNat * 8192 + mode * 256 + persistence) :
    w.getLsbD 15 = signed ∧ w.getLsbD 14 = decide (link = 1) ∧ w.getLsbD 13 = part ∧ field w 10 3 = 0 ∧
      field w 8 2 = mode ∧ field w 0 8 = persistence := by
  have hs : signed.toNat ≤ 1 := Bool.toNat_le signed
  have hpart : part.toNat ≤ 1 := Bool.toNat_le part
  have linkBit : (decide (link = 1)).toNat = link := by
    obtain none | one : link = 0 ∨ link = 1 := by omega
    · rw [none]
      rfl
    · rw [one]
      rfl
  simp only [field_eq]
  refine ⟨getLsbD_of_toNat ?_, getLsbD_of_toNat ?_, getLsbD_of_toNat ?_, ?_, ?_, ?_⟩ <;> omega

/-- The emission mode and argument read back. -/
theorem emissionRead_words {w1 w2 : Word} {e : Emission} (he : e.inRange = true) (h1 : field w1 8 2 = e.number)
    (h2 : w2 = numWord e.argument) :
    emissionRead w1 w2 = e ∧ field w1 8 2 ≤ 2 ∧ (field w1 8 2 = 1 → 2 ≤ w2.toNat ∧ w2.toNat ≤ 255) := by
  rw [emissionRead, h1, h2]
  cases e with
  | every => exact ⟨rfl, Nat.zero_le 2, nofun⟩
  | nth n =>
    obtain ⟨hlo, hhi⟩ := within_iff.mp he
    have word : (numWord n).toNat = n := by
      rw [numWord, BitVec.toNat_ofNat]
      omega
    simp only [Emission.number, Emission.argument, word]
    exact ⟨rfl, by decide, fun _ => ⟨hlo, hhi⟩⟩
  | change n =>
    have hn : n ≤ 65535 := of_decide_eq_true he
    have word : (numWord n).toNat = n := by
      rw [numWord, BitVec.toNat_ofNat]
      omega
    simp only [Emission.number, Emission.argument, word]
    exact ⟨rfl, Nat.le_refl 2, nofun⟩

/-- The 24 bits of a definition's lo, 0 without a limits part. -/
def ParamDef.loBits (d : ParamDef) : BitVec 24 :=
  match d.limits with
  | none => 0
  | some l => BitVec.ofInt 24 l.lo

/-- The 24 bits of a definition's hi, 0 without a limits part. -/
def ParamDef.hiBits (d : ParamDef) : BitVec 24 :=
  match d.limits with
  | none => 0
  | some l => BitVec.ofInt 24 l.hi

/-- The persistence of a definition, 0 without a limits part. -/
def ParamDef.persistence (d : ParamDef) : Nat :=
  match d.limits with
  | none => 0
  | some l => l.persistence

/-- The six words of a definition. -/
theorem paramDefWords_eq (d : ParamDef) :
    paramDefWords d =
      [ (BitVec.ofNat 4 d.pieces ++ BitVec.ofNat 12 d.number : BitVec 16),
        (BitVec.ofBool d.signed ++ BitVec.ofNat 1 d.link.val ++ BitVec.ofBool d.limits.isSome ++ 0#3 ++
          BitVec.ofNat 2 d.emission.number ++ BitVec.ofNat 8 d.persistence : BitVec 16),
        numWord d.emission.argument, d.loBits.extractLsb' 8 16,
        (d.loBits.extractLsb' 0 8 ++ d.hiBits.extractLsb' 16 8 : BitVec 16), d.hiBits.extractLsb' 0 16 ] := rfl

/-- The limits part reads back. -/
theorem limitsRead_words {d : ParamDef} {w1 w3 w4 w5 : Word} (h : ∀ l ∈ d.limits, l.InRange d.signed)
    (hb : w1.getLsbD 13 = d.limits.isSome) (hp : field w1 0 8 = d.persistence)
    (hlo : w3 ++ w4.extractLsb' 8 8 = d.loBits) (hhi : w4.extractLsb' 0 8 ++ w5 = d.hiBits) :
    limitsRead d.signed w1 w3 w4 w5 = d.limits ∧
      (w1.getLsbD 13 = true → loOf d.signed w3 w4 ≤ hiOf d.signed w4 w5 ∧ 1 ≤ field w1 0 8) := by
  unfold limitsRead loOf hiOf
  dsimp only
  rw [hb, hp, hlo, hhi]
  unfold ParamDef.loBits ParamDef.hiBits ParamDef.persistence
  cases hl : d.limits with
  | none => exact ⟨rfl, nofun⟩
  | some l =>
    obtain ⟨ordered, never, -, low, high⟩ := h l hl
    have lo := bound_ofInt low (ordered.trans high)
    have hi := bound_ofInt (low.trans ordered) high
    dsimp only
    rw [lo, hi]
    exact ⟨rfl, fun _ => ⟨ordered, never⟩⟩

/-- A definition reads back from the words it is written in. -/
theorem paramDefOf_words {d : ParamDef} (h : d.InRange) :
    ∃ w0 w1 w2 w3 w4 w5 : Word, paramDefWords d = [w0, w1, w2, w3, w4, w5] ∧
      paramDefOf w0 w1 w2 w3 w4 w5 = some d ∧ (d.emission = .every → w2 = 0) ∧
      (d.limits = none → field w1 0 8 = 0 ∧ w3 = 0 ∧ w4 = 0 ∧ w5 = 0) := by
  obtain ⟨hnumber, hone, hfour, hemission, hlimits⟩ := h
  have persistent : d.persistence < 256 := by
    unfold ParamDef.persistence
    cases hl : d.limits with
    | none => decide
    | some l => exact Nat.lt_succ_of_le (hlimits l hl).2.2.1
  have mode : d.emission.number < 4 := by cases d.emission <;> simp [Emission.number]
  have word0 : (BitVec.ofNat 4 d.pieces ++ BitVec.ofNat 12 d.number : BitVec 16).toNat =
      d.pieces * 4096 + d.number := by
    rw [toNat_append_eq, BitVec.toNat_ofNat, BitVec.toNat_ofNat]
    omega
  obtain ⟨signed, link, part, reserved, modeField, persistence⟩ :=
    paramWord1_parts d.link.isLt mode persistent
      (paramWord1_toNat d.signed d.limits.isSome d.link.val d.emission.number d.persistence d.link.isLt mode
        persistent)
  obtain ⟨emission, modeRange, argument⟩ := emissionRead_words (w2 := numWord d.emission.argument) hemission
    modeField rfl
  obtain ⟨limits, bounds⟩ := limitsRead_words hlimits part persistence (lo_append d.loBits d.hiBits)
    (hi_append d.loBits d.hiBits)
  refine ⟨_, _, _, _, _, _, paramDefWords_eq d, paramDefOf_eq_some_iff.mpr ?_, ?_, ?_⟩
  · have number : field (BitVec.ofNat 4 d.pieces ++ BitVec.ofNat 12 d.number : BitVec 16) 0 12 = d.number := by
      rw [field_eq, word0]
      omega
    have pieces : field (BitVec.ofNat 4 d.pieces ++ BitVec.ofNat 12 d.number : BitVec 16) 12 4 = d.pieces := by
      rw [field_eq, word0]
      omega
    have linked : (if decide (d.link.val = 1) = true then 1 else 0 : Link) = d.link := by
      generalize d.link = l
      decide +revert
    rw [number, pieces, signed, link, linked, emission, limits]
    exact ⟨field_eq_zero_iff.mp reserved, modeRange, argument, hone, hfour, bounds, rfl⟩
  · intro every
    rw [every]
    rfl
  · intro none
    refine ⟨persistence.trans ?_, ?_, ?_, ?_⟩
    · rw [ParamDef.persistence, none]
    · rw [ParamDef.loBits, none]
      rfl
    · rw [ParamDef.loBits, ParamDef.hiBits, none]
      rfl
    · rw [ParamDef.hiBits, none]
      rfl

end Sys2Proof.Machine
end

section
/-! PROOFS. READ_PARAM, READ_BANK and READ_STATUS: their refusals and the words they report; and from these the
obligation O49. -/

namespace Sys2Proof.Machine

section
variable {o : QueuedOrder} {s u : State} {reply : Reply}

/-- An order of several records, by what its own part gives. -/
theorem carryOutUpTo_eq {n code : Nat} {perform : QueuedOrder → State → State × Reply} (h : s.Carries code o)
    (hp : perform o s = (u, reply)) : carryOutUpTo n code perform s = answerUpTo n o reply u.draw := by
  rw [carryOutUpTo_carries h, hp]

/-- An order of several records in part goes on with those left. -/
theorem carryOutUpTo_placing {n code : Nat} {perform : QueuedOrder → State → State × Reply} {next : Record}
    {rest : List Record} (he : s.orders.engine = .placing o next rest) (hc : o.code = code) :
    carryOutUpTo n code perform s =
      placeReplies o ((next :: rest).getLast?.getD []) ((next :: rest).drop n) ((next :: rest).take n) s := by
  simp only [carryOutUpTo, he, hc, if_true]
  rfl

/-! ### READ_PARAM (R113, R166) -/

theorem exec_readParam (h : s.Carries 0x21 o) (hp : readParamOrder o s = (u, reply)) :
    exec .readParam s = .next (answer o reply u.draw) :=
  congrArg Host.Outcome.next (carryOut_eq h hp)

theorem numWord_arg (o : QueuedOrder) (i : Nat) : numWord (o.arg i) = o.word i := by
  rw [numWord, QueuedOrder.arg, BitVec.ofNat_toNat, BitVec.setWidth_eq]

theorem numWord_letter (k : BankId) : numWord k.letter = if k = .a then 0x000A else 0x000B := by
  cases k <;> rfl

/-- The width that READ_PARAM reports: the latest value's, and without one the width a value would have. -/
theorem reportedWidth_eq {f : Slot} {d : ParamDef} {rt : Runtime} {width : Nat}
    (present : ∀ v : Latest, rt.latest = some v → width = v.width)
    (bound : ∀ (t : Trunk) (r : RowIx), rt.latest = none → s.boundRow f = some (t, r) →
      width = d.pieces * (s.receiver t).profile.width)
    (unbound : rt.latest = none → s.boundRow f = none → width = 0) : reportedWidth f d rt s = width := by
  unfold reportedWidth
  cases hv : rt.latest with
  | some v => exact (present v hv).symm
  | none =>
    cases hb : s.boundRow f with
    | none => exact (unbound hv hb).symm
    | some p => exact (bound p.1 p.2 hv hb).symm

/-- The words of the latest value. -/
theorem latestFlags_eq (l : Option Latest) :
    latestFlags l =
      match l with
      | none => 0x0000
      | some v => if v.mark then 0x0101 else 0x0100 := by
  cases l with
  | none => rfl
  | some v =>
    simp only [latestFlags]
    cases v.mark <;> rfl

/-- The 23 words of READ_PARAM. -/
theorem readParamBody_eq (f : Slot) (d : ParamDef) (rt : Runtime) (s : State) :
    readParamBody f d rt s =
      [numWord f.val, if (s.format f).active = .a then 0x000A else 0x000B, numWord (reportedWidth f d rt s),
        if d.signed then 1 else 0,
        (match rt.latest with
          | none => 0x0000
          | some v => if v.mark then 0x0101 else 0x0100),
        if d.limits.isSome then 1 else 0,
        if d.limits.isSome then
          (BitVec.ofNat 4 rt.limit.number ++ BitVec.ofNat 4 (candidateNumber rt.candidate) ++
            BitVec.ofNat 8 rt.run : BitVec 16)
        else 0,
        numWord d.emission.number, numWord rt.nth, if rt.emitted.isSome then 1 else 0,
        rt.samples.extractLsb' 16 16, rt.samples.extractLsb' 0 16] ++
      (match rt.latest with
        | none => [0, 0, 0, 0, 0, 0, 0]
        | some v =>
          [v.cycleCount.extractLsb' 16 16, v.cycleCount.extractLsb' 0 16, numWord v.frame] ++ valueWords 4 v.value) ++
      (match rt.emitted with
        | none => [0, 0, 0, 0]
        | some v => valueWords 4 v) := by
  have zeros : valueWords 4 0 = [0, 0, 0, 0] := by decide
  have zero : numWord 0 = 0 := rfl
  rw [readParamBody, numWord_letter, latestFlags_eq]
  cases hl : rt.latest <;> cases he : rt.emitted <;> simp [boolWord, limitWord, countWords, zeros, zero]

/-! ### READ_BANK (R167) -/

theorem exec_readBank (n : Nat) (h : s.Carries 0x22 o) (hp : readBankOrder o s = (u, reply)) :
    exec (.readBank n) s = .next (answerUpTo n o reply u.draw) :=
  congrArg Host.Outcome.next (carryOutUpTo_eq h hp)

/-- The words of READ_BANK in their ranges. -/
theorem readBankRanges_eq (o : QueuedOrder) :
    readBankRanges o =
      [ (0, decide (o.arg 0 ≤ 7)), (1, decide (o.arg 1 ≤ 1)), (2, decide (o.arg 2 ≤ 2)),
        (3, decide (o.arg 2 = 0 ∨ o.arg 3 ≤ 4095)),
        (4, decide (o.arg 2 = 0 ∨ (1 ≤ o.arg 4 ∧ o.arg 4 ≤ if o.arg 2 = 1 then 1152 else 256))) ] := by
  have unexamined : ∀ (a : Nat) (p : Prop) [Decidable p], (a == 0 || decide p) = decide (a = 0 ∨ p) := by
    intro a p _
    rw [Bool.decide_or]
    rfl
  simp only [readBankRanges, within_eq_decide, unexamined, Nat.zero_le, true_and]

/-- READ_BANK asks for no more than its records hold. -/
theorem readBank_count (h : rangeFailure (readBankRanges o) = none) (h0 : o.arg 2 ≠ 0) :
    o.arg 4 ≤ 18 * 64 ∧ (o.arg 2 ≠ 1 → o.arg 4 ≤ 4 * 64) := by
  rw [readBankRanges_eq, rangeFailure_eq_none] at h
  have count := (of_decide_eq_true (h _ (List.getLast_mem (List.cons_ne_nil _ _)))).resolve_left h0
  split at count <;> omega

/-- The header words of a bank. -/
theorem readBankBodies_header {b : Bank} {draws : Nat} (h : o.arg 2 = 0) :
    (b.header = none → readBankBodies o draws b = [[0, 0, 0, 0, 0, 0, 0]]) ∧
      ∀ x : Header, b.header = some x → readBankBodies o draws b = [1 :: headerWords x] := by
  simp only [readBankBodies, h, if_true]
  exact ⟨fun hn => by simp only [hn], fun x hx => by simp only [hx]⟩

theorem readBankBodies_slots {b : Bank} {draws : Nat} (h : o.arg 2 = 1) :
    readBankBodies o draws b = listBodies 18 slotEntryWords (o.arg 3) (o.arg 4) draws b.slots := by
  simp only [readBankBodies, h, Nat.one_ne_zero, if_false, if_true]
  rfl

theorem readBankBodies_params {b : Bank} {draws : Nat} (h0 : o.arg 2 ≠ 0) (h1 : o.arg 2 ≠ 1) :
    readBankBodies o draws b = listBodies 4 paramDefWords (o.arg 3) (o.arg 4) draws b.params := by
  simp only [readBankBodies, if_neg h0, if_neg h1]
  rfl

/-- READ_BANK places at most 64 records, each within a record's room. -/
theorem readBankBodies_size (o : QueuedOrder) (draws : Nat) (b : Bank) :
    (readBankBodies o draws b).length ≤ 64 ∧ ∀ body ∈ readBankBodies o draws b, body.length ≤ 56 := by
  by_cases h0 : o.arg 2 = 0
  case pos =>
    obtain ⟨without, with'⟩ := readBankBodies_header (b := b) (draws := draws) h0
    have one : ∀ body : List Word, body.length ≤ 56 →
        [body].length ≤ 64 ∧ ∀ x ∈ [body], x.length ≤ 56 := by simp
    cases hb : b.header with
    | none =>
      rw [without hb]
      exact one _ (by decide)
    | some x =>
      rw [with' x hb]
      exact one (1 :: headerWords x) (by simp [headerWords])
  case neg =>
    by_cases h1 : o.arg 2 = 1
    case pos =>
      rw [readBankBodies_slots h1]
      exact listBodies_size (n := 18) (w := 3) fun _ => rfl
    case neg =>
      rw [readBankBodies_params h0 h1]
      obtain ⟨few, short⟩ := listBodies_size (n := 4) (start := o.arg 3) (count := o.arg 4) (draws := draws)
        (xs := b.params) (words := paramDefWords) (w := 6) fun _ => rfl
      exact ⟨few, fun body hb => (short body hb).trans (by norm_num)⟩

/-! ### READ_STATUS (R169, R170) -/

/-- READ_STATUS of a scope that does not exist. -/
theorem exec_readStatus_error {i : Nat} (n : Nat) (h : s.Carries 0x23 o)
    (hs : scopeOf (o.arg 0) (o.arg 1) = .error i) :
    exec (.readStatus n) s =
      .next (answerUpTo n o { status := .badArgument, detail := numWord i, bodies := [[]] } s.draw) :=
  congrArg Host.Outcome.next (carryOutUpTo_eq (perform := readStatusOrder) h
    (by simp only [readStatusOrder, hs]; rfl))

/-- READ_STATUS of a scope. -/
theorem exec_readStatus_ok {sc : Scope} {scope : Nat} (n : Nat) (h : s.Carries 0x23 o) (h0 : o.arg 0 = scope)
    (hs : scopeOf scope (o.arg 1) = .ok sc) :
    exec (.readStatus n) s =
      .next (answerUpTo n o { status := .ok, detail := numWord scope, bodies := statusBodies s sc } s.draw) :=
  congrArg Host.Outcome.next (carryOutUpTo_eq (perform := readStatusOrder) h
    (by simp only [readStatusOrder, h0, hs]))

/-- The record of a row. -/
theorem rowBody_eq {draws : Nat} {r : RowIx} {x : Option Row} {row : List Word}
    (vacant : x = none → row = List.replicate 17 0)
    (occupied : ∀ y : Row, x = some y →
      row =
        [1, if y.tag.isSome then 1 else 0,
          (match y.tag with | none => Config.absentTagWord draws r | some v => numWord v),
          numWord y.format.val, numWord y.cycle.number, numWord y.expected, numWord y.check,
          numWord y.miss, numWord y.current] ++
        [y.cycleCount, y.losses, y.mismatches, y.broken].flatMap
          (fun c => [c.extractLsb' 16 16, c.extractLsb' 0 16])) :
    row = rowBody draws r x := by
  cases x with
  | none => exact vacant rfl
  | some y => exact occupied y rfl

theorem length_rowBody (draws : Nat) (r : RowIx) (x : Option Row) : (rowBody draws r x).length = 17 := by
  cases x <;> rfl

theorem length_memoryBody (draws : Nat) (m : Option MemoryRow) : (memoryBody draws m).length = 3 := by
  cases m <;> rfl

/-- The lengths of the records of a trunk. -/
theorem trunkBodies_lengths (t : Trunk) (s : State) :
    (trunkBodies t s).map List.length = [30, 17, 17, 17, 20] := by
  simp only [trunkBodies, List.map_cons, List.map_nil, List.length_append, length_rowBody, length_memoryBody]
  rfl

/-- The records of the rows of a trunk; the last holds the trunk's memory row too. -/
theorem trunkBodies_row (t : Trunk) (r : RowIx) (s : State) :
    (r ≠ 3 → (trunkBodies t s)[r.val + 1]? = some (rowBody s.draws r (s.row t r))) ∧
      (r = 3 → (trunkBodies t s)[4]? =
        some (rowBody s.draws r (s.row t r) ++ memoryBody s.draws (pick s.orders.memory t))) := by
  match r with
  | 0 => exact ⟨fun _ => rfl, fun h => absurd h (by decide)⟩
  | 1 => exact ⟨fun _ => rfl, fun h => absurd h (by decide)⟩
  | 2 => exact ⟨fun _ => rfl, fun h => absurd h (by decide)⟩
  | 3 => exact ⟨fun h => absurd rfl h, fun _ => rfl⟩

theorem length_formatBody (f : Slot) (s : State) : (formatBody f s).length = 13 := by
  unfold formatBody
  dsimp only
  cases (s.format f).probation <;> cases s.boundRow f <;> rfl

end

/-- Settles O49: the records left are placed; a parameter, a bank and a scope are reported in their words, and the
words of entries read back. -/
theorem readingsReported : Obligations.ReadingsReported := by
  unfold Obligations.ReadingsReported
  refine ⟨?placing, ?param, ?bank, fun e he => slotEntryOf_words he, fun d hd => paramDefOf_words hd, ?status⟩
  case placing =>
    intro n o next rest s code c hc he hcode
    simp only [List.mem_cons, Prod.mk.injEq, List.not_mem_nil, or_false] at hc
    rcases hc with ⟨h, rfl⟩ | ⟨h, rfl⟩
    · exact congrArg Host.Outcome.next (carryOutUpTo_placing (perform := readBankOrder) he (hcode.trans h))
    · exact congrArg Host.Outcome.next (carryOutUpTo_placing (perform := readStatusOrder) he (hcode.trans h))
  case param =>
    intro o s h
    refine ⟨?range, ?undefined, ?defined⟩
    case range => exact fun h0 => exec_readParam h (if_pos h0)
    case undefined =>
      intro h0 undefined
      rw [← numWord_arg]
      exact exec_readParam h
        (by simp only [readParamOrder, if_neg (Nat.not_lt.mpr h0), definingSlot_eq_none undefined]; rfl)
    case defined =>
      intro f d rt width h0 hf hd hr present bound unbound
      have performed : readParamOrder o s = (s, Reply.one .ok (numWord (o.arg 0)) (readParamBody f d rt s)) := by
        simp only [readParamOrder, if_neg (Nat.not_lt.mpr h0), hf, hd, hr]
      rw [exec_readParam h performed, readParamBody_eq, reportedWidth_eq present bound unbound, numWord_arg]
      rfl
  case bank =>
    intro n o s h
    refine ⟨fun checks hchecks => by rw [hchecks, readBankRanges_eq]; rfl, ?refused, ?read⟩
    case refused =>
      exact fun i hi => exec_readBank n h (by simp only [readBankOrder, hi]; rfl)
    case read =>
      intro f letter b bodies hr h0 hletter hb hbodies
      rw [hbodies]
      have performed : readBankOrder o s =
          (s, { status := .ok, detail := numWord letter.letter, bodies := readBankBodies o s.draws b }) := by
        simp only [readBankOrder, hr, h0, slotOf_val, hb, hletter]
      obtain ⟨few, short⟩ := readBankBodies_size o s.draws b
      refine ⟨exec_readBank n h performed, few, short, fun h2 => (readBankBodies_header h2).1,
        fun x h2 => (readBankBodies_header h2).2 x, ?slots, ?params⟩
      case slots =>
        intro read h2 hread
        rw [readBankBodies_slots h2]
        have count := readBank_count hr
        rw [h2] at count
        exact ⟨listBodies_of_nil hread, listBodies_records (by norm_num) (count (by decide)).1 hread⟩
      case params =>
        intro read h2 hread
        rw [readBankBodies_params (by rw [h2]; decide) (by rw [h2]; decide)]
        have count := readBank_count hr
        rw [h2] at count
        exact ⟨listBodies_of_nil hread, listBodies_records (by norm_num) ((count (by decide)).2 (by decide)) hread⟩
  case status =>
    intro n o s h
    refine ⟨?scope, ?index, ?part, ?trunk, ?link, ?format⟩
    case scope => exact fun h0 => exec_readStatus_error n h (scopeOf_badScope _ h0)
    case index => exact fun hi => exec_readStatus_error n h (scopeOf_badIndex hi)
    case part =>
      intro body h0 h1 hbody
      rw [hbody]
      exact exec_readStatus_ok n h h0 (by rw [h1]; exact scopeOf_part)
    case trunk =>
      intro t x bodies h0 h1 hx hbodies
      rw [hbodies, hx]
      refine ⟨exec_readStatus_ok (sc := .trunk t) n h h0 (by rw [h1]; exact scopeOf_trunk t),
        trunkBodies_lengths t s, rfl, ?_⟩
      intro r row vacant occupied
      rw [rowBody_eq vacant occupied]
      refine ⟨(trunkBodies_row t r s).1, fun hr => ?_⟩
      rw [(trunkBodies_row t r s).2 hr]
      rfl
    case link =>
      intro l lk body h0 h1 hlk hbody
      have written : body = linkBody (s.link l) := by
        rw [hbody, hlk]
        unfold linkBody sendingNumber
        rcases (s.link l).sending with _ | _ | _ <;> rfl
      rw [written]
      exact ⟨rfl, exec_readStatus_ok (sc := .link l) n h h0 (by rw [h1]; exact scopeOf_link l)⟩
    case format =>
      intro f x body h0 h1 hx hbody
      have written : body = formatBody f s := by
        rw [hbody, hx, formatBody, numWord_letter]
        rfl
      rw [written]
      exact ⟨length_formatBody f s, exec_readStatus_ok (sc := .format f) n h h0 (by rw [h1]; exact scopeOf_format f)⟩

end Sys2Proof.Machine
end

section
/-! PROOFS. ARMED standbys and probations beside locked rows (R67, R73, R76), and what holds between the steps of one
order (R71, R174): what frames, lock losses and orders do to them; and from these the obligation O57. -/

namespace Sys2Proof.Machine

/-! ### Settled format slots -/

theorem FormatSlot.settled_iff {x : FormatSlot} :
    x.settled = true ↔ x.standby ≠ .armed ∧ x.probation = none := by
  simp [settled]

/-- A format slot that is not settled has an ARMED standby or a probation. -/
theorem FormatSlot.settled_eq_false_iff {x : FormatSlot} :
    x.settled = false ↔ x.standby = .armed ∨ x.probation.isSome = true := by
  cases hp : x.probation <;> simp [settled, hp]

/-- ARMED standbys and probations stand beside locked rows: what is not settled is bound to one. -/
theorem armedLocked_iff {s : State} :
    s.ArmedLocked ↔ ∀ f, (s.format f).settled = false → boundLocked f s = true := by
  simp only [State.ArmedLocked, FormatSlot.settled_eq_false_iff]

/-! ### What moves a set of rows -/

/-- `u` follows from `s` by what happens at the rows of `P`: no settled format slot becomes unsettled, and no
other row changes its cycle state. -/
structure Moves (P : Trunk → RowIx → Prop) (s u : State) : Prop where
  keeps : Keeps s u
  settled : ∀ f, (s.format f).settled = true → (u.format f).settled = true
  others : s.BindingsLawful → ∀ t r, ¬ P t r → (u.row t r).map Row.cycle = (s.row t r).map Row.cycle

theorem Moves.refl (P : Trunk → RowIx → Prop) (s : State) : Moves P s s :=
  ⟨Keeps.refl s, fun _ => id, fun _ _ _ _ => rfl⟩

theorem Moves.trans {P : Trunk → RowIx → Prop} {s u v : State} (h : Moves P s u) (k : Moves P u v) : Moves P s v where
  keeps := h.keeps.trans k.keeps
  settled f := k.settled f ∘ h.settled f
  others hb t r hp := (k.others (h.keeps.bindings hb) t r hp).trans (h.others hb t r hp)

theorem Moves.mono {P Q : Trunk → RowIx → Prop} {s u : State} (h : Moves P s u)
    (hq : s.BindingsLawful → ∀ t r, P t r → Q t r) : Moves Q s u where
  keeps := h.keeps
  settled := h.settled
  others hb t r hn := h.others hb t r (fun hp => hn (hq hb t r hp))

theorem Moves.foldl {α : Type} {P : Trunk → RowIx → Prop} {step : State → α → State}
    (h : ∀ s a, Moves P s (step s a)) (xs : List α) : ∀ s, Moves P s (xs.foldl step s) := by
  induction xs with
  | nil => exact Moves.refl P
  | cons x xs ih => exact fun s => (h s x).trans (ih _)

/-- A change of rows of `P` alone. -/
theorem Moves.of_rows {P : Trunk → RowIx → Prop} {s u : State} (k : Keeps s u) (hf : u.formats = s.formats)
    (hr : ∀ t r, ¬ P t r → (u.row t r).map Row.cycle = (s.row t r).map Row.cycle) : Moves P s u where
  keeps := k
  settled f h := by
    have same : u.format f = s.format f := congrArg (fun v => pick v f) hf
    rw [same]
    exact h
  others _ := hr

/-- A change of one unsettled format slot, and of rows of `P`. -/
theorem Moves.of_slot {P : Trunk → RowIx → Prop} {s u : State} {f : Slot} (k : Keeps s u)
    (hs : (s.format f).settled = false) (hf : ∀ g, f ≠ g → u.format g = s.format g)
    (hr : ∀ t r, ¬ P t r → (u.row t r).map Row.cycle = (s.row t r).map Row.cycle) : Moves P s u where
  keeps := k
  settled g hg := by
    have other : f ≠ g := by
      rintro rfl
      rw [hs] at hg
      cases hg
    rw [hf g other]
    exact hg
  others _ := hr

/-- A row of its own. -/
abbrev AtRow (t : Trunk) (r : RowIx) : Trunk → RowIx → Prop := fun t' r' => t = t' ∧ r = r'

/-- The rows of one trunk. -/
abbrev OnTrunk (t : Trunk) : Trunk → RowIx → Prop := fun t' _ => t = t'

/-- The row bound to a format slot. -/
abbrev BoundTo (s : State) (f : Slot) : Trunk → RowIx → Prop := fun t r => s.boundRow f = some (t, r)

theorem Moves.onTrunk {t : Trunk} {r : RowIx} {s u : State} (h : Moves (AtRow t r) s u) : Moves (OnTrunk t) s u :=
  h.mono (fun _ _ _ hp => hp.1)

/-- What happens at the row bound to a format slot happens at the row that carries it. -/
theorem Moves.atRow {t : Trunk} {r : RowIx} {x : Row} {s u : State} (hx : s.row t r = some x)
    (h : Moves (BoundTo s x.format) s u) : Moves (AtRow t r) s u :=
  h.mono (fun hb t' r' hp => by simpa using (boundRow_of_row hb hx).symm.trans hp)

theorem changeRow_moves {t : Trunk} {r : RowIx} {g : Row → Row} {s : State} (k : Keeps s (changeRow t r g s)) :
    Moves (AtRow t r) s (changeRow t r g s) :=
  Moves.of_rows k (changeRow_formats t r g s) (fun t' r' hp => by rw [changeRow_row, if_neg hp])

theorem setRow_moves {t : Trunk} {r : RowIx} {x : Option Row} {s : State} (k : Keeps s (s.setRow t r x)) :
    Moves (AtRow t r) s (s.setRow t r x) :=
  Moves.of_rows k rfl (fun t' r' hp => by rw [setRow_row, if_neg hp])

/-- A change of one row outside its cycle state. -/
theorem onRow_cycle {t : Trunk} {r : RowIx} {g : Row → Row} (hg : ∀ x, (g x).cycle = x.cycle) (s : State)
    (t' : Trunk) (r' : RowIx) : ((s.onRow t r g).row t' r').map Row.cycle = (s.row t' r').map Row.cycle := by
  rw [onRow_row]
  split
  · rw [Option.map_map]
    exact congrArg (fun k => Option.map k (s.row t' r')) (funext hg)
  · rfl

theorem onRow_formats (t : Trunk) (r : RowIx) (g : Row → Row) (s : State) : (s.onRow t r g).formats = s.formats := by
  unfold State.onRow
  split <;> rfl

theorem breakCounted_cycle (f : Slot) (t : Trunk) (r : RowIx) (s : State) (t' : Trunk) (r' : RowIx) :
    ((breakCounted f t r s).row t' r').map Row.cycle = (s.row t' r').map Row.cycle := by
  have counted := onRow_cycle (t := t) (r := r)
    (g := fun x => { x with broken := addTally x.broken (partialCount (s.contextsOf f)) }) (fun _ => rfl) s t' r'
  rw [breakCounted, breakContexts, setContexts_row]
  exact counted

theorem breakCounted_formats (f : Slot) (t : Trunk) (r : RowIx) (s : State) :
    (breakCounted f t r s).formats = s.formats := by
  rw [breakCounted, breakContexts, setContexts_formats, onRow_formats]

theorem breakCounted_moves (P : Trunk → RowIx → Prop) (f : Slot) (t : Trunk) (r : RowIx) (s : State) :
    Moves P s (breakCounted f t r s) :=
  Moves.of_rows (breakCounted_keeps f t r s) (breakCounted_formats f t r s)
    (fun t' r' _ => breakCounted_cycle f t r s t' r')

theorem routeFrame_moves (P : Trunk → RowIx → Prop) (t : Trunk) (r : RowIx) (st : Standing) (words : List Word)
    (mark : Bool) (s : State) : Moves P s (routeFrame t r st words mark s) := by
  have keeps := routeFrame_keeps t r st words mark s
  obtain ⟨cs, rs, ls, n, e⟩ := routeFrame_frame t r st words mark s
  rw [e] at keeps ⊢
  exact Moves.of_rows keeps rfl (fun _ _ _ => rfl)

theorem onCounters_moves (P : Trunk → RowIx → Prop) (t : Trunk) (g : TrunkCounters → TrunkCounters) (s : State) :
    Moves P s (s.onCounters t g) := Moves.of_rows (onCounters_keeps t g s) rfl (fun _ _ _ => rfl)

theorem setWaiting_moves (P : Trunk → RowIx → Prop) (t : Trunk) (w : List Waiting) (s : State) :
    Moves P s (s.setWaiting t w) :=
  Moves.of_rows (setWaiting_keeps t w s) rfl (fun t' r' _ => by rw [setWaiting_row])

/-! ### Switches and probations -/

theorem switchFormat_moves {f : Slot} {cause : SwitchCause} {s : State} (h : (s.format f).settled = false) :
    Moves (BoundTo s f) s (switchFormat f cause s) :=
  Moves.of_slot (switchFormat_keeps f cause s) h (fun _ hg => by rw [switchFormat_format, if_neg hg])
    (fun t r hp => by rw [switchFormat_row, if_neg hp])

/-- A probation replaced, without event or with it. -/
theorem setProbation_moves {f : Slot} {p : Option Nat} {s : State} (P : Trunk → RowIx → Prop)
    (h : (s.format f).settled = false) : Moves P s (s.setFormat f { s.format f with probation := p }) :=
  Moves.of_slot (setFormat_keeps f { s.format f with probation := p } s rfl rfl rfl) h
    (fun _ hg => setFormat_format_ne _ _ _ _ hg) (fun _ _ _ => rfl)

theorem passProbation_moves {f : Slot} {s : State} (P : Trunk → RowIx → Prop) (h : (s.format f).settled = false) :
    Moves P s (passProbation f s) := by
  refine (setProbation_moves (p := none) P h).trans ?_
  rw [passProbation_eq]
  exact Moves.of_rows (postEvent_keeps _ _ _ _ _) (postEvent_formats _ _ _ _ _).1 (fun t r _ => by rw [postEvent_row])

theorem passProbation_format (f : Slot) (s : State) (g : Slot) :
    (passProbation f s).format g = if f = g then { s.format f with probation := none } else s.format g := by
  unfold passProbation postProbationPassed State.format
  rw [(postEvent_formats _ _ _ _ _).1, setFormat_formats, pick_put]

/-- The switch control's part of an order settles the format slot it is made for, and moves its bound row (R71). -/
theorem settleFormat_moves {cause : SwitchCause} (s : State) (f : Slot) :
    Moves (BoundTo s f) s (settleFormat cause s f) := by
  unfold settleFormat
  split
  next ha => exact switchFormat_moves (FormatSlot.settled_eq_false_iff.mpr (.inl ha))
  · split
    next hp => exact passProbation_moves _ (FormatSlot.settled_eq_false_iff.mpr (.inr hp))
    · exact Moves.refl _ s

theorem settleFormat_settled {cause : SwitchCause} (hc : cause ≠ .commit) (s : State) (f : Slot) :
    ((settleFormat cause s f).format f).settled = true := by
  unfold settleFormat
  split
  · rw [switchFormat_format, if_pos rfl]
    exact FormatSlot.switched_settled hc
  next ha =>
    split
    · rw [passProbation_format, if_pos rfl]
      exact FormatSlot.settled_iff.mpr ⟨ha, rfl⟩
    next hp => exact FormatSlot.settled_iff.mpr ⟨ha, by simpa using hp⟩

theorem switchAtBoundary_moves (f : Slot) (s : State) : Moves (BoundTo s f) s (switchAtBoundary f s) := by
  unfold switchAtBoundary
  split
  next ha => exact switchFormat_moves (FormatSlot.settled_eq_false_iff.mpr (.inl ha))
  · split
    · exact Moves.refl _ s
    next n hn =>
      have unsettled := FormatSlot.settled_eq_false_iff.mpr (.inr (by rw [hn]; rfl))
      split
      · exact passProbation_moves _ unsettled
      · exact setProbation_moves _ unsettled

theorem switchAtLoss_moves (f : Slot) (cause : LossCause) (s : State) :
    Moves (BoundTo s f) s (switchAtLoss f cause s) := by
  unfold switchAtLoss
  split
  next ha => exact switchFormat_moves (FormatSlot.settled_eq_false_iff.mpr (.inl ha))
  · split
    next hp =>
      simp only [Bool.and_eq_true] at hp
      exact switchFormat_moves (FormatSlot.settled_eq_false_iff.mpr (.inr hp.1))
    · exact Moves.refl _ s

/-- The switch control leaves nothing unsettled at a loss of lock with traffic as its cause (R33, R70, R75). -/
theorem switchAtLoss_settled (f : Slot) (s : State) : ((switchAtLoss f .traffic s).format f).settled = true := by
  unfold switchAtLoss
  split
  · rw [switchFormat_format, if_pos rfl]
    exact FormatSlot.switched_settled nofun
  next ha =>
    split
    · rw [switchFormat_format, if_pos rfl]
      exact FormatSlot.switched_settled nofun
    next hp => exact FormatSlot.settled_iff.mpr ⟨ha, by simpa using hp⟩

/-! ### Rows that stay locked -/

/-- `u` has lawful formats when `s` has, and then ARMED standbys and probations beside locked rows alone. -/
structure Locks (s u : State) : Prop where
  forms : Forms s u
  locked : s.FormatsLawful → s.ArmedLocked → u.ArmedLocked

theorem Locks.refl (s : State) : Locks s s := ⟨Forms.refl s, fun _ => id⟩

theorem Locks.trans {s u v : State} (h : Locks s u) (k : Locks u v) : Locks s v where
  forms := h.forms.trans k.forms
  locked hs ha := k.locked (h.forms hs).1 (h.locked hs ha)

/-- A format slot bound to a locked row is so still when its bindings are the same and that row stays locked. -/
theorem boundLocked_of_cycle {s u : State} (hk : ∀ t r, (u.row t r).map Row.key = (s.row t r).map Row.key)
    {f : Slot} (h : boundLocked f s = true)
    (hc : ∀ t r x, s.row t r = some x → x.format = f → x.cycle = .locked → (u.row t r).map Row.cycle = some .locked) :
    boundLocked f u = true := by
  obtain ⟨t, r, x, hb, hx, hl⟩ := boundLocked_iff.mp h
  obtain ⟨y, hy, hf⟩ := boundRow_row hb
  obtain rfl := Option.some.inj (hy.symm.trans hx)
  obtain ⟨z, hz, hzc⟩ := Option.map_eq_some_iff.mp (hc t r y hx hf hl)
  exact boundLocked_iff.mpr ⟨t, r, z, (boundRow_of_keys hk f).trans hb, hz, hzc⟩

/-- What happens at the rows of `P` leaves ARMED standbys and probations beside locked rows, when each of these rows
that is locked stays so or has its format slot settled. -/
theorem Moves.locks {P : Trunk → RowIx → Prop} {s u : State} (h : Moves P s u) (hf : Forms s u)
    (hp : s.FormatsLawful → s.ArmedLocked → ∀ t r x, P t r → s.row t r = some x → x.cycle = .locked →
      (u.row t r).map Row.cycle = some .locked ∨ (u.format x.format).settled = true) : Locks s u where
  forms := hf
  locked hs ha := by
    refine armedLocked_iff.mpr (fun f hu => ?_)
    have unsettled : (s.format f).settled = false := by
      cases hsf : (s.format f).settled with
      | false => rfl
      | true => rw [h.settled f hsf] at hu; cases hu
    refine boundLocked_of_cycle h.keeps.keys (armedLocked_iff.mp ha f unsettled) (fun t r x hx hxf hc => ?_)
    by_cases ht : P t r
    · obtain kept | settled := hp hs ha t r x ht hx hc
      · exact kept
      · rw [hxf, hu] at settled
        cases settled
    · rw [h.others hs.1 t r ht, hx]
      exact congrArg some hc

/-- A change that leaves formats, cycle states and bindings alone. -/
theorem Locks.of_same {s u : State} (hf : Forms s u) (hs : ∀ f, u.format f = s.format f)
    (hk : ∀ t r, (u.row t r).map Row.key = (s.row t r).map Row.key)
    (hc : ∀ t r, (u.row t r).map Row.cycle = (s.row t r).map Row.cycle) : Locks s u where
  forms := hf
  locked _ ha := by
    refine armedLocked_iff.mpr (fun f hu => ?_)
    rw [hs] at hu
    refine boundLocked_of_cycle hk (armedLocked_iff.mp ha f hu) (fun t r x hx _ hl => ?_)
    rw [hc, hx]
    exact congrArg some hl

/-- A change that touches neither receivers, trackers nor format slots. -/
theorem Locks.aside {s u : State} (hr : u.receivers = s.receivers) (ht : u.trackers = s.trackers)
    (hf : u.formats = s.formats) : Locks s u := by
  have rows : ∀ t r, u.row t r = s.row t r := fun t r => by rw [State.row, State.tracker, ht]; rfl
  exact Locks.of_same (Forms.aside hr ht hf) (fun f => by rw [State.format, hf]; rfl)
    (fun t r => by rw [rows]) (fun t r => by rw [rows])

/-! ### The tracker -/

/-- What happens at the rows of a trunk, ARMED standbys and probations staying beside locked rows. -/
structure Tracked (t : Trunk) (s u : State) : Prop where
  moves : Moves (OnTrunk t) s u
  locks : Locks s u

theorem Tracked.refl (t : Trunk) (s : State) : Tracked t s s := ⟨Moves.refl _ s, Locks.refl s⟩

theorem Tracked.trans {t : Trunk} {s u v : State} (h : Tracked t s u) (k : Tracked t u v) : Tracked t s v :=
  ⟨h.moves.trans k.moves, h.locks.trans k.locks⟩

theorem Tracked.foldl {α : Type} {t : Trunk} {step : State → α → State} (h : ∀ s a, Tracked t s (step s a))
    (xs : List α) : ∀ s, Tracked t s (xs.foldl step s) := by
  induction xs with
  | nil => exact Tracked.refl t
  | cons x xs ih => exact fun s => (h s x).trans (ih _)

/-- What happens at one row, which stays locked if it was, or has its format slot settled. -/
theorem Moves.tracked {t : Trunk} {r : RowIx} {s u : State} (h : Moves (AtRow t r) s u) (hf : Forms s u)
    (hp : s.FormatsLawful → ∀ x, s.row t r = some x → x.cycle = .locked →
      (u.row t r).map Row.cycle = some .locked ∨ (u.format x.format).settled = true) : Tracked t s u where
  moves := h.onTrunk
  locks := h.locks hf (by rintro hs - t' r' x ⟨rfl, rfl⟩ hx hc; exact hp hs x hx hc)

/-- A loss of lock at an occupied row, step by step. -/
theorem loseLock_of_some {t : Trunk} {r : RowIx} {x : Row} {s : State} (hx : s.row t r = some x) (cause : LossCause) :
    loseLock t r cause s =
      switchAtLoss x.format cause (breakCounted x.format t r (changeRow t r Row.unlocked s)) := by
  simp only [loseLock, hx]
  rfl

/-- A loss of lock moves its row (R33). -/
theorem loseLock_moves (t : Trunk) (r : RowIx) (cause : LossCause) (s : State) :
    Moves (AtRow t r) s (loseLock t r cause s) := by
  cases hx : s.row t r with
  | none =>
    have same : loseLock t r cause s = s := by simp only [loseLock, hx]
    rw [same]
    exact Moves.refl _ s
  | some x =>
    have kept : Keeps s (changeRow t r Row.unlocked s) :=
      changeRow_keeps t r Row.unlocked s (fun _ _ => rfl) (fun _ _ _ => ⟨fun _ => rfl, fun _ => rfl⟩)
    have broken := (changeRow_moves kept).trans (breakCounted_moves (AtRow t r) x.format t r _)
    rw [loseLock_of_some hx]
    generalize breakCounted x.format t r (changeRow t r Row.unlocked s) = u at broken ⊢
    obtain ⟨y, hy, hk⟩ := Option.map_eq_some_iff.mp ((broken.keeps.keys t r).trans (by rw [hx]; rfl))
    have same : x.format = y.format := (congrArg Prod.fst hk).symm
    rw [same]
    exact broken.trans ((switchAtLoss_moves y.format cause u).atRow hy)

theorem loseLock_settled {t : Trunk} {r : RowIx} {x : Row} {s : State} (hx : s.row t r = some x) :
    ((loseLock t r .traffic s).format x.format).settled = true := by
  rw [loseLock_of_some hx]
  exact switchAtLoss_settled _ _

/-- A loss of lock through traffic (R33). -/
theorem loseLock_tracked {t : Trunk} {r : RowIx} {s : State}
    (hc : ∀ x, s.row t r = some x → x.cycle ≠ .unformatted) : Tracked t s (loseLock t r .traffic s) :=
  (loseLock_moves t r .traffic s).tracked (loseLock_forms .traffic hc) (fun _ _ hx _ => .inr (loseLock_settled hx))

theorem endRow_moves (t : Trunk) (cause : LossCause) (s : State) (r : RowIx) :
    Moves (OnTrunk t) s (endRow t cause s r) := by
  have keeps := endRow_keeps t cause s r
  unfold endRow at keeps ⊢
  split
  · exact Moves.refl _ s
  next x hx =>
    rw [hx] at keeps
    split
    next hc => exact (loseLock_moves t r cause s).onTrunk
    next hc =>
      simp only [hc] at keeps
      exact (changeRow_moves keeps).onTrunk
    · exact Moves.refl _ s
    · exact Moves.refl _ s

theorem endRow_tracked (t : Trunk) (s : State) (r : RowIx) : Tracked t s (endRow t .traffic s r) := by
  have keeps := endRow_keeps t .traffic s r
  have forms := endRow_forms t .traffic s r
  unfold endRow at keeps forms ⊢
  split
  · exact Tracked.refl t s
  next x hx =>
    rw [hx] at keeps forms
    split
    next hc =>
      refine loseLock_tracked (fun y hy => ?_)
      obtain rfl := Option.some.inj (hx.symm.trans hy)
      simp [hc]
    next hc =>
      simp only [hc] at keeps forms
      refine (changeRow_moves keeps).tracked forms (fun _ y hy hl => ?_)
      obtain rfl := Option.some.inj (hx.symm.trans hy)
      rw [hc] at hl
      cases hl
    · exact Tracked.refl t s
    · exact Tracked.refl t s

theorem endDelivery_moves (t : Trunk) (cause : LossCause) (s : State) :
    Moves (OnTrunk t) s (endDelivery t cause s) := Moves.foldl (endRow_moves t cause) rowList s

theorem endDelivery_tracked (t : Trunk) (s : State) : Tracked t s (endDelivery t .traffic s) :=
  Tracked.foldl (endRow_tracked t) rowList s

theorem cycleStep_tracked {t : Trunk} {r : RowIx} {x : Row} {s : State} (hx : s.row t r = some x) (h : Header)
    (words : List Word) : Tracked t s (cycleStep t r h words x s).1 := by
  have keeps := cycleStep_keeps t r h words x s hx
  have forms := cycleStep_forms hx h words
  have unlocked : x.cycle ≠ .locked → ∀ {u : State}, ∀ y, s.row t r = some y → y.cycle = .locked →
      (u.row t r).map Row.cycle = some .locked ∨ (u.format y.format).settled = true := by
    intro hc u y hy hl
    obtain rfl := Option.some.inj (hx.symm.trans hy)
    exact absurd hl hc
  unfold cycleStep at keeps forms ⊢
  split
  · exact Tracked.refl t s
  next hc =>
    simp only [hc] at keeps forms
    exact (changeRow_moves keeps).tracked forms (fun _ => unlocked (by simp [hc]))
  next hc =>
    simp only [hc] at keeps forms
    exact (changeRow_moves keeps).tracked forms (fun _ => unlocked (by simp [hc]))
  next hc =>
    simp only [hc] at keeps forms
    obtain ⟨key, locked, lawful⟩ := lockedRow_keeps h words x hc
    have same : (lockedRow h words x).format = x.format := congrArg Prod.fst key
    dsimp only
    split
    next hm =>
      rw [if_pos hm] at keeps forms
      have missed := setRow_moves (setRow_keeps hx key lawful)
      refine (missed.trans (loseLock_moves t r .traffic _)).tracked forms (fun _ y hy _ => .inr ?_)
      obtain rfl := Option.some.inj (hx.symm.trans hy)
      rw [← same]
      exact loseLock_settled (setRow_row_same _ _ _ _)
    next hm =>
      rw [if_neg hm] at keeps forms
      refine (setRow_moves keeps).tracked forms (fun _ y _ _ => .inl ?_)
      rw [setRow_row_same]
      exact congrArg some locked

/-- A row whose cycle is counted (R32). -/
def Row.counted (x : Row) : Row := { x with cycleCount := x.cycleCount + 1 }

/-- A cycle boundary at an occupied row, step by step. -/
theorem cycleBoundary_of_some {t : Trunk} {r : RowIx} {x : Row} {s : State} (hx : s.row t r = some x) :
    cycleBoundary t r s =
      switchAtBoundary x.format (breakCounted x.format t r (s.onRow t r Row.counted)) := by
  simp only [cycleBoundary, hx]
  rfl

/-- A probation passed leaves the cycle states. -/
theorem passProbation_row (f : Slot) (s : State) (t : Trunk) (r : RowIx) :
    (passProbation f s).row t r = s.row t r := by
  rw [passProbation_eq, postEvent_row, setFormat_row]

/-- The switch control at a cycle boundary leaves the bound row locked (R32, R35). -/
theorem switchAtBoundary_locked {f : Slot} {s : State} (h : boundLocked f s = true) :
    boundLocked f (switchAtBoundary f s) = true := by
  unfold switchAtBoundary
  split
  · exact switchFormat_locked _ _ _ _ h
  · split
    · exact h
    · split
      · refine boundLocked_of_cycle (passProbation_keeps _ _).keys h (fun t r x hx _ hc => ?_)
        rw [passProbation_row, hx]
        exact congrArg some hc
      · exact h

/-- A cycle boundary leaves a locked row locked (R32, R35). -/
theorem cycleBoundary_tracked (t : Trunk) (r : RowIx) (s : State) : Tracked t s (cycleBoundary t r s) := by
  have forms := cycleBoundary_forms t r s
  cases hx : s.row t r with
  | none =>
    have same : cycleBoundary t r s = s := by simp only [cycleBoundary, hx]
    rw [same]
    exact Tracked.refl t s
  | some x =>
    rw [cycleBoundary_of_some hx] at forms ⊢
    have counted : Moves (AtRow t r) s (s.onRow t r Row.counted) :=
      Moves.of_rows (onRow_keeps t r Row.counted s (fun _ => rfl) (fun _ _ k => k)) (onRow_formats t r Row.counted s)
        (fun t' r' _ => onRow_cycle (g := Row.counted) (fun _ => rfl) s t' r')
    have broken := counted.trans (breakCounted_moves (AtRow t r) x.format t r _)
    have cycle : ((breakCounted x.format t r (s.onRow t r Row.counted)).row t r).map Row.cycle = some x.cycle := by
      rw [breakCounted_cycle, onRow_cycle (g := Row.counted) (fun _ => rfl), hx, Option.map_some]
    generalize breakCounted x.format t r (s.onRow t r Row.counted) = u at forms broken cycle ⊢
    obtain ⟨y, hy, hk⟩ := Option.map_eq_some_iff.mp ((broken.keeps.keys t r).trans (by rw [hx]; rfl))
    have same : x.format = y.format := (congrArg Prod.fst hk).symm
    rw [same] at forms ⊢
    refine (broken.trans ((switchAtBoundary_moves y.format u).atRow hy)).tracked forms (fun hs z hz hl => .inl ?_)
    have zx : z = x := Option.some.inj (hz.symm.trans hx)
    have bound : u.boundRow y.format = some (t, r) := boundRow_of_row (broken.keeps.bindings hs.1) hy
    have locked : boundLocked y.format u = true := by
      rw [hy] at cycle
      exact boundLocked_iff.mpr ⟨t, r, y, bound, hy, (Option.some.inj cycle).trans (zx ▸ hl)⟩
    obtain ⟨t', r', w, hb, hw, hwc⟩ := boundLocked_iff.mp (switchAtBoundary_locked locked)
    rw [boundRow_of_keys (switchAtBoundary_keeps _ _).keys, bound] at hb
    obtain ⟨rfl, rfl⟩ := Prod.mk.inj (Option.some.inj hb)
    rw [hw]
    exact congrArg some hwc

theorem routeFrame_tracked (t : Trunk) (r : RowIx) (st : Standing) (words : List Word) (mark : Bool) (s : State) :
    Tracked t s (routeFrame t r st words mark s) where
  moves := routeFrame_moves _ t r st words mark s
  locks := by
    obtain ⟨cs, rs, ls, n, e⟩ := routeFrame_frame t r st words mark s
    rw [e]
    exact Locks.aside rfl rfl rfl

theorem setWaiting_tracked (t : Trunk) (w : List Waiting) (s : State) : Tracked t s (s.setWaiting t w) where
  moves := setWaiting_moves _ t w s
  locks := Locks.of_same (setWaiting_forms t w s) (fun _ => rfl) (fun _ _ => by rw [setWaiting_row])
    (fun _ _ => by rw [setWaiting_row])

theorem onCounters_tracked (t k : Trunk) (g : TrunkCounters → TrunkCounters) (s : State) :
    Tracked t s (s.onCounters k g) where
  moves := onCounters_moves _ k g s
  locks := Locks.of_same (onCounters_forms k g s) (fun _ => rfl) (fun _ _ => rfl) (fun _ _ => rfl)

theorem rowFrame_tracked {t : Trunk} {r : RowIx} {x : Row} {s : State} (hx : s.row t r = some x)
    (words : List Word) (mark : Bool) : Tracked t s (rowFrame t r x words mark s) := by
  unfold rowFrame
  split
  · exact Tracked.refl t s
  · split
    · exact Tracked.refl t s
    next h _ =>
      dsimp only
      have routed := (cycleStep_tracked hx h words).trans
        (routeFrame_tracked t r (cycleStep t r h words x s).2 words mark _)
      split
      · exact routed.trans (cycleBoundary_tracked _ _ _)
      · exact routed

theorem processFrame_tracked (t : Trunk) (words : List Word) (mark : Bool) (s : State) :
    Tracked t s (processFrame t words mark s) := by
  unfold processFrame
  dsimp only
  split
  · exact onCounters_tracked _ _ _ _
  · split
    · exact onCounters_tracked _ _ _ _
    next hx => exact rowFrame_tracked hx _ _

theorem takeWaiting_tracked (t : Trunk) (s : State) (w : Waiting) : Tracked t s (takeWaiting t s w) := by
  unfold takeWaiting
  split
  · exact processFrame_tracked _ _ _ _
  · exact endDelivery_tracked _ _

theorem drainWaiting_tracked (t : Trunk) (s : State) : Tracked t s (drainWaiting t s) :=
  (setWaiting_tracked t [] s).trans (Tracked.foldl (takeWaiting_tracked t) _ _)

theorem takeSignals_tracked (t : Trunk) (ws : List Waiting) : ∀ s, Tracked t s (takeSignals t ws s) := by
  induction ws with
  | nil => exact Tracked.refl t
  | cons w rest ih =>
    intro s
    cases w with
    | frame words mark => exact Tracked.refl t s
    | deliveryEnded => exact (setWaiting_tracked _ _ _).trans ((endDelivery_tracked _ _).trans (ih _))

theorem trackerFrame_tracked (t : Trunk) (words : List Word) (mark : Bool) (s : State) :
    Tracked t s (trackerFrame t words mark s) := by
  unfold trackerFrame
  split
  · split
    · exact setWaiting_tracked _ _ _
    · exact Tracked.refl t s
  · exact (drainWaiting_tracked _ _).trans (processFrame_tracked _ _ _ _)

theorem trackerEnded_tracked (t : Trunk) (s : State) : Tracked t s (trackerEnded t s) := by
  unfold trackerEnded
  split
  · exact setWaiting_tracked _ _ _
  · exact (drainWaiting_tracked _ _).trans (endDelivery_tracked _ _)

theorem waitingFrame_tracked (t : Trunk) (s : State) : Tracked t s (waitingFrame t s) := by
  unfold waitingFrame
  split
  · exact Tracked.refl t s
  · split
    · exact Tracked.refl t s
    · exact (setWaiting_tracked _ _ _).trans ((endDelivery_tracked _ _).trans (takeSignals_tracked _ _ _))
    · exact (setWaiting_tracked _ _ _).trans ((processFrame_tracked _ _ _ _).trans (takeSignals_tracked _ _ _))

end Sys2Proof.Machine
end

section
/-! PROOFS. What holds between the steps of one order (R71, R174), and the commands that leave the order engine
alone or take it to another order: frames, comparisons, order frames, links and replies. -/

namespace Sys2Proof.Machine

/-! ### Between the steps of one order -/

/-- Whether an engine is neither within the switch control's part of an order nor within RESTART. -/
def Engine.plain : Engine → Bool
  | .idle => true
  | .executing _ => true
  | .settling _ _ => false
  | .restarting _ _ => false
  | .placing _ _ _ => true
  | .replying _ _ _ => true

/-- No row of a trunk is in CYCLE_CHECK or CYCLE_LOCKED. -/
def RowsIdle (t : Trunk) (s : State) : Prop :=
  ∀ (r : RowIx) (c : CycleState), (s.row t r).map Row.cycle = some c → c = .search ∨ c = .unformatted

/-- Rows in the same cycle states are idle together. -/
theorem RowsIdle.of_cycle {t : Trunk} {s u : State} (h : RowsIdle t s)
    (hc : ∀ r, (u.row t r).map Row.cycle = (s.row t r).map Row.cycle) : RowsIdle t u :=
  fun r c hr => h r c ((hc r).symm.trans hr)

/-- What RESTART has left, and what the steps made have brought about (R174, R175). -/
structure Restarts (left : List RestartStep) (s : State) : Prop where
  last : left ∈ restartSteps.tails
  settled : .switchControl ∈ left ∨ ∀ f, (s.format f).settled = true
  idle : ∀ t : Trunk, .rows ∈ left → .trunk t ∉ left → RowsIdle t s

/-- The formats that an order concerns are still to be handled or settled (R71). -/
def Settles (o : QueuedOrder) (left : List Slot) (s : State) : Prop :=
  ∀ f ∈ concernedFormats o s, f ∈ left ∨ (s.format f).settled = true

theorem stepsLawful_of_plain {s : State} (h : s.orders.engine.plain = true) : s.stepsLawful = true := by
  unfold State.stepsLawful
  cases he : s.orders.engine with
  | settling o left => rw [he] at h; cases h
  | restarting o left => rw [he] at h; cases h
  | idle => rfl
  | executing o => rfl
  | placing o next rest => rfl
  | replying o held rest => rfl

/-- What holds between the steps of a SET_TRUNK or an UNBIND_SOURCE. -/
theorem stepsLawful_settling_iff {s : State} {o : QueuedOrder} {left : List Slot}
    (h : s.orders.engine = .settling o left) : s.stepsLawful = true ↔ Settles o left s := by
  simp [State.stepsLawful, h, Settles]

/-- Whether the rows of a trunk are idle, row by row. -/
def idleRows (t : Trunk) (s : State) : Bool :=
  rowList.all (fun r => match s.row t r with
    | none => true
    | some x => x.cycle == .search || x.cycle == .unformatted)

theorem idleRows_iff {t : Trunk} {s : State} : idleRows t s = true ↔ RowsIdle t s := by
  rw [idleRows, List.all_eq_true]
  constructor
  · intro h r c hc
    obtain ⟨x, hx, rfl⟩ := Option.map_eq_some_iff.mp hc
    simpa [hx] using h r (mem_rowList r)
  · intro h r _
    cases hx : s.row t r with
    | none => rfl
    | some x => simpa using h r x.cycle (by rw [hx]; rfl)

theorem mem_trunkList (t : Trunk) : t ∈ trunkList := by
  revert t
  decide

/-- The tracker of a trunk is held between its reinitialization and the setting of the rows (R175). -/
theorem held_iff {s : State} {o : QueuedOrder} {left : List RestartStep} (h : s.orders.engine = .restarting o left)
    {t : Trunk} : s.held t = true ↔ .rows ∈ left ∧ .trunk t ∉ left := by
  simp [State.held, h]

/-- What holds between the steps of RESTART. -/
theorem stepsLawful_restarting_iff {s : State} {o : QueuedOrder} {left : List RestartStep}
    (h : s.orders.engine = .restarting o left) : s.stepsLawful = true ↔ Restarts left s ∧ left ≠ [] := by
  have parts : s.stepsLawful =
      (decide (left ∈ restartSteps.tails) && decide (left ≠ []) &&
        (left.contains .switchControl || slotList.all (fun f => (s.format f).settled)) &&
        trunkList.all (fun t => !s.held t || idleRows t s)) := by
    unfold State.stepsLawful
    rw [h]
    rfl
  have rows : ∀ t, (!s.held t || idleRows t s) = true ↔ (.rows ∈ left → .trunk t ∉ left → RowsIdle t s) :=
    fun t => by
      rw [Bool.or_eq_true, idleRows_iff, Bool.not_eq_true', ← Bool.not_eq_true, held_iff h, ← imp_iff_not_or, and_imp]
  simp only [parts, Bool.and_eq_true, decide_eq_true_eq, Bool.or_eq_true (left.contains .switchControl),
    List.contains_iff_mem, List.all_eq_true, mem_slotList, true_implies, mem_trunkList, rows]
  constructor
  · rintro ⟨⟨⟨last, more⟩, settled⟩, idle⟩
    exact ⟨⟨last, settled, idle⟩, more⟩
  · rintro ⟨⟨last, settled, idle⟩, more⟩
    exact ⟨⟨⟨last, more⟩, settled⟩, idle⟩

/-! ### Commands that stay between two steps -/

/-- `u` follows from `s` while the engine waits between two steps: bindings stay, settled format slots stay settled,
and the rows of a trunk whose tracker is held stay idle. -/
structure Between (s u : State) : Prop where
  engine : u.orders.engine = s.orders.engine
  keys : ∀ t r, (u.row t r).map Row.key = (s.row t r).map Row.key
  settled : ∀ f, (s.format f).settled = true → (u.format f).settled = true
  idle : s.FormatsLawful → ∀ t, s.held t = true → RowsIdle t s → RowsIdle t u

/-- A tracker is held by what the engine does alone. -/
theorem held_of_engine {s u : State} (h : u.orders.engine = s.orders.engine) (t : Trunk) : u.held t = s.held t := by
  simp only [State.held, h]

/-- The formats that an order concerns are those of the same rows. -/
theorem concernedFormats_of_keys {s u : State} (h : ∀ t r, (u.row t r).map Row.key = (s.row t r).map Row.key)
    (o : QueuedOrder) : concernedFormats o u = concernedFormats o s := by
  have formats : ∀ t r, (u.row t r).map (fun x => x.format) = (s.row t r).map (fun x => x.format) := fun t r => by
    have key := congrArg (Option.map Prod.fst) (h t r)
    rwa [Option.map_map, Option.map_map] at key
  have trunk : ∀ t, formatsOnTrunk t u = formatsOnTrunk t s := fun t => by simp only [formatsOnTrunk, formats]
  have row : unbindCheck o u = unbindCheck o s := by
    unfold unbindCheck unbindTarget
    cases trunkOf (o.arg 0) with
    | none => rfl
    | some t =>
      cases rowOf (o.arg 1) with
      | none => rfl
      | some r =>
        have same := formats t r
        cases hu : u.row t r with
        | none =>
          rw [hu, Option.map_none, eq_comm, Option.map_eq_none_iff] at same
          simp only [hu, same]
        | some x =>
          rw [hu, Option.map_some, eq_comm, Option.map_eq_some_iff] at same
          obtain ⟨y, hy, format⟩ := same
          simp only [hu, hy]
          exact congrArg (fun f => Except.ok [f]) format.symm
  simp only [concernedFormats, trunk, row]

theorem Between.stepsLawful {s u : State} (h : Between s u) (hs : s.FormatsLawful) (hl : s.stepsLawful = true) :
    u.stepsLawful = true := by
  cases he : s.orders.engine with
  | settling o left =>
    rw [stepsLawful_settling_iff he] at hl
    rw [stepsLawful_settling_iff (h.engine.trans he)]
    intro f hf
    rw [concernedFormats_of_keys h.keys] at hf
    exact (hl f hf).imp_right (h.settled f)
  | restarting o left =>
    rw [stepsLawful_restarting_iff he] at hl
    rw [stepsLawful_restarting_iff (h.engine.trans he)]
    obtain ⟨⟨last, settled, idle⟩, more⟩ := hl
    refine ⟨⟨last, settled.imp_right fun all f => h.settled f (all f), fun t hr ht => ?_⟩, more⟩
    exact h.idle hs t ((held_iff he).mpr ⟨hr, ht⟩) (idle t hr ht)
  | idle => exact stepsLawful_of_plain (by rw [h.engine, he]; rfl)
  | executing o => exact stepsLawful_of_plain (by rw [h.engine, he]; rfl)
  | placing o next rest => exact stepsLawful_of_plain (by rw [h.engine, he]; rfl)
  | replying o held rest => exact stepsLawful_of_plain (by rw [h.engine, he]; rfl)

theorem Between.trans {s u v : State} (hf : Forms s u) (h : Between s u) (k : Between u v) : Between s v where
  engine := k.engine.trans h.engine
  keys t r := (k.keys t r).trans (h.keys t r)
  settled f := k.settled f ∘ h.settled f
  idle hs t ht hi := k.idle (hf hs).1 t ((held_of_engine h.engine t).trans ht) (h.idle hs t ht hi)

/-- `u` follows from `s`, ARMED standbys and probations staying beside locked rows, and the engine between two steps
of an order staying there, or at another order. -/
structure Stays (s u : State) : Prop where
  locks : Locks s u
  between : u.orders.engine.plain = true ∨ Between s u

theorem Stays.refl (s : State) : Stays s s :=
  ⟨Locks.refl s, .inr ⟨rfl, fun _ _ => rfl, fun _ => id, fun _ _ _ => id⟩⟩

theorem Stays.trans {s u v : State} (h : Stays s u) (k : Stays u v) : Stays s v where
  locks := h.locks.trans k.locks
  between := by
    rcases k.between with plain | later
    · exact .inl plain
    · rcases h.between with plain | before
      · exact .inl (by rw [later.engine]; exact plain)
      · exact .inr (before.trans h.locks.forms later)

theorem Stays.foldl {α : Type} {step : State → α → State} (h : ∀ s a, Stays s (step s a)) (xs : List α) :
    ∀ s, Stays s (xs.foldl step s) := by
  induction xs with
  | nil => exact Stays.refl
  | cons x xs ih => exact fun s => (h s x).trans (ih _)

/-- What stays between two steps keeps the laws of the switch control. -/
theorem Stays.switchLawful {s u : State} (h : Stays s u) (hs : s.SwitchLawful) : u.SwitchLawful := by
  obtain ⟨formats, armed, steps⟩ := hs
  refine ⟨(h.locks.forms formats).1, h.locks.locked formats armed, ?_⟩
  rcases h.between with plain | between
  · exact stepsLawful_of_plain plain
  · exact between.stepsLawful formats steps

/-- What changes neither rows nor format slots, the engine staying or at another order. -/
theorem Stays.of_same {s u : State} (hf : Forms s u) (formats : u.formats = s.formats)
    (rows : ∀ t r, u.row t r = s.row t r)
    (engine : u.orders.engine = s.orders.engine ∨ u.orders.engine.plain = true) : Stays s u := by
  have slots : ∀ f, u.format f = s.format f := fun f => congrArg (fun v => pick v f) formats
  refine ⟨Locks.of_same hf slots (fun t r => by rw [rows]) (fun t r => by rw [rows]), ?_⟩
  rcases engine with same | plain
  · refine .inr ⟨same, fun t r => by rw [rows], fun f h => by rw [slots]; exact h, fun _ t _ hi => ?_⟩
    exact hi.of_cycle fun r => by rw [rows]
  · exact .inl plain

/-- What changes neither receivers, trackers nor format slots. -/
theorem Stays.aside {s u : State} (hr : u.receivers = s.receivers) (ht : u.trackers = s.trackers)
    (hf : u.formats = s.formats)
    (engine : u.orders.engine = s.orders.engine ∨ u.orders.engine.plain = true) : Stays s u :=
  Stays.of_same (Forms.aside hr ht hf) hf (fun t r => by rw [State.row, State.tracker, ht]; rfl) engine

/-! ### Links, events and replies -/

theorem giveNotice_stays (l : Link) (n : RoomNotice) (s : State) : Stays s (giveNotice l n s) := by
  obtain ⟨k, e⟩ := giveNotice_frame l n s
  rw [e]
  exact Stays.aside rfl rfl rfl (.inl rfl)

theorem setLink_stays (l : Link) (x : LinkTx) (s : State) : Stays s (s.setLink l x) :=
  Stays.aside rfl rfl rfl (.inl rfl)

theorem setEvents_stays (ev : EventUnit) (s : State) : Stays s (s.setEvents ev) :=
  Stays.aside rfl rfl rfl (.inl rfl)

theorem linkUp_stays (l : Link) (s : State) : Stays s (linkUp l s) := by
  unfold linkUp
  split
  · exact setLink_stays _ _ _
  · exact Stays.refl s

theorem linkDown_stays (l : Link) (s : State) : Stays s (linkDown l s) := by
  unfold linkDown
  split
  · exact Stays.refl s
  · exact (setLink_stays _ _ _).trans (giveNotice_stays _ _ _)

theorem expireTimer_stays (l : Link) (s : State) : Stays s (expireTimer l s) := by
  obtain ⟨ls, n, k, e⟩ := expireTimer_frame l s
  rw [e]
  exact Stays.aside rfl rfl rfl (.inl rfl)

theorem recordSent_stays (l : Link) (s : State) : Stays s (recordSent l s) := by
  unfold recordSent
  split
  · exact Stays.refl s
  · exact setLink_stays _ _ _
  · exact (setLink_stays _ _ _).trans (giveNotice_stays _ _ _)

theorem passUnit_stays (s : State) : Stays s (passUnit s) := by
  obtain ⟨ls, ev, n, d, e⟩ := passUnit_frame s
  rw [e]
  exact Stays.aside rfl rfl rfl (.inl rfl)

theorem placeEvent_stays (l : Link) (r : Record) (s : State) : Stays s (placeEvent l r s) := by
  obtain ⟨ls, n, e⟩ := placeEvent_frame l r s
  rw [e]
  exact Stays.aside rfl rfl rfl (.inl rfl)

/-- The engine takes no order, or one not yet carried out. -/
theorem takeNext_engine (s : State) :
    (takeNext s).orders.engine = s.orders.engine ∨ (takeNext s).orders.engine.plain = true := by
  unfold takeNext
  split
  · dsimp only
    split <;> exact .inr rfl
  · exact .inl rfl

theorem takeNext_stays (s : State) : Stays s (takeNext s) := by
  have engine := takeNext_engine s
  obtain ⟨e, q, b, h⟩ := takeNext_frame s
  rw [h] at engine ⊢
  exact Stays.aside rfl rfl rfl engine

/-- An order ended leaves the engine at no order, or at the next one. -/
theorem finishOrder_plain (o : QueuedOrder) (final : Record) (s : State) :
    (finishOrder o final s).orders.engine.plain = true := by
  unfold finishOrder
  dsimp only
  rcases takeNext_engine (s.setOrders
    { s.orders with
      memory := if o.tag = 0 then s.orders.memory
        else put s.orders.memory o.trunk (some { tag := o.tag, code := o.code, record := final })
      engine := .idle, notice := none }) with same | plain
  · rw [same]
    rfl
  · exact plain

/-- Placing reply records leaves the engine at the reply, or past it. -/
theorem placeReplies_plain (o : QueuedOrder) (final : Record) (later rs : List Record) :
    ∀ s : State, (placeReplies o final later rs s).orders.engine.plain = true := by
  induction rs with
  | nil =>
    intro s
    cases later with
    | nil => exact finishOrder_plain o final s
    | cons next rest => rfl
  | cons r rest ih =>
    intro s
    rw [placeReplies]
    split
    · exact ih _
    · exact ih _
    · rfl

/-- Placing reply records. -/
theorem placeReplies_stays (o : QueuedOrder) (final : Record) (later rs : List Record) (s : State) :
    Stays s (placeReplies o final later rs s) := by
  have plain := placeReplies_plain o final later rs s
  obtain ⟨ls, e, q, n, m, b, h⟩ := placeReplies_frame o final later rs s
  rw [h] at plain ⊢
  exact Stays.aside rfl rfl rfl (.inr plain)

/-- An answer that follows some effects. -/
theorem answer_stays {s u : State} (h : Locks s u) (o : QueuedOrder) (rs : List Record) :
    Stays s (sendRecords o rs u.draw) where
  locks := h.trans ((Stays.aside rfl rfl rfl (.inl rfl) : Stays u u.draw).trans (placeReplies_stays _ _ _ _ _)).locks
  between := .inl (placeReplies_plain _ _ _ _ _)

theorem takeNotice_stays (n : Nat) (s : State) : Stays s (takeNotice n s) := by
  unfold takeNotice
  split
  · have noticed : Stays s (s.setOrders { s.orders with notice := none }) := Stays.aside rfl rfl rfl (.inl rfl)
    dsimp only
    split
    · exact noticed.trans (placeReplies_stays _ _ _ _ _)
    · exact noticed.trans (placeReplies_stays _ _ _ _ _)
  · exact Stays.refl s

theorem unknownOrder_stays (s : State) : Stays s (unknownOrder s) := by
  unfold unknownOrder
  split
  · split
    · exact Stays.refl s
    · exact answer_stays (Locks.refl s) _ _
  · exact Stays.refl s
  · exact Stays.refl s
  · exact Stays.refl s
  · exact Stays.refl s
  · exact Stays.refl s

/-- Carrying out an order of one record, given what its effects do. -/
theorem carryOut_stays {code : Nat} {perform : QueuedOrder → State → State × Reply}
    (h : ∀ o s, Locks s (perform o s).1) (s : State) : Stays s (carryOut code perform s) := by
  obtain e | ⟨o, rs, -, e⟩ | ⟨o, -, e⟩ := carryOut_cases code perform s <;> rw [e]
  · exact Stays.refl s
  · exact placeReplies_stays _ _ _ _ _
  · exact answer_stays (h o s) _ _

/-- Carrying out a reading. -/
theorem carryOutUpTo_stays {n code : Nat} {perform : QueuedOrder → State → State × Reply}
    (h : ∀ o s, (perform o s).1 = s) (s : State) : Stays s (carryOutUpTo n code perform s) := by
  obtain e | ⟨o, final, later, rs, -, e⟩ | ⟨o, -, e⟩ := carryOutUpTo_cases n code perform s <;> rw [e]
  · exact Stays.refl s
  · exact placeReplies_stays _ _ _ _ _
  · rw [h]
    exact (Stays.aside rfl rfl rfl (.inl rfl) : Stays s s.draw).trans (placeReplies_stays _ _ _ _ _)

/-! ### Receivers and order frames -/

theorem onCounters_stays (t : Trunk) (g : TrunkCounters → TrunkCounters) (s : State) : Stays s (s.onCounters t g) :=
  Stays.of_same (onCounters_forms t g s) rfl (fun _ _ => rfl) (.inl rfl)

theorem setReceiver_stays {s : State} {t : Trunk} {y : Receiver} (h : y.profile = (s.receiver t).profile) :
    Stays s (s.setReceiver t y) :=
  Stays.of_same (setReceiver_forms (by rw [h])) rfl (fun _ _ => rfl) (.inl rfl)

/-- A receiver changed leaves rows and format slots. -/
theorem changeReceiver_same (t : Trunk) (y : Receiver) (s : State) :
    (changeReceiver t y s).formats = s.formats ∧ ∀ k r, (changeReceiver t y s).row k r = s.row k r := by
  unfold changeReceiver
  split
  · exact ⟨rfl, fun _ _ => rfl⟩
  · exact ⟨(postEvent_formats _ _ _ _ _).1, fun k r => by rw [postTrunkSync, postEvent_row, setReceiver_row]⟩

theorem changeReceiver_stays {s : State} {t : Trunk} {y : Receiver} (h : y.profile = (s.receiver t).profile) :
    Stays s (changeReceiver t y s) :=
  Stays.of_same (changeReceiver_forms (by rw [h])) (changeReceiver_same t y s).1 (changeReceiver_same t y s).2
    (.inl (by rw [(changeReceiver_apart t y s).orders]))

theorem postOrdersShed_stays (t : Trunk) (h : Word) (s : State) : Stays s (postOrdersShed t h s) := by
  unfold postOrdersShed
  split
  · exact (setEvents_stays _ _).trans (placeEvent_stays _ _ _)
  · exact Stays.refl _

theorem postOrderRefused_stays (t : Trunk) (h : Word) (s : State) : Stays s (postOrderRefused t h s) := by
  unfold postOrderRefused
  split
  · exact (setEvents_stays _ _).trans (placeEvent_stays _ _ _)
  · exact Stays.refl _

theorem roomTest_stays (o : QueuedOrder) (s : State) : Stays s (roomTest o s) := by
  unfold roomTest
  split
  · have queued : Stays s (s.setOrders { s.orders with queue := s.orders.queue ++ [o] }) :=
      Stays.aside rfl rfl rfl (.inl rfl)
    exact queued.trans (takeNext_stays _)
  · exact (onCounters_stays _ _ _).trans (postOrdersShed_stays _ _ _)

theorem handOrder_stays (o : QueuedOrder) (s : State) : Stays s (handOrder o s) := by
  unfold handOrder
  split
  · have armed : Stays s (armRefusal o.trunk s) := setEvents_stays _ s
    refine armed.trans ?_
    dsimp only
    split
    · exact Stays.refl _
    · exact roomTest_stays _ _
  · exact (onCounters_stays _ _ _).trans (postOrderRefused_stays _ _ _)

theorem orderFrame_stays (t : Trunk) (w : OrderFrame) (s : State) : Stays s (orderFrame t w s) := by
  unfold orderFrame
  dsimp only
  split
  · exact Stays.refl s
  next m _ =>
    split
    · have ended : Stays s (s.setReceiver t ((s.receiver t).orderEnded (m + 16 * (w.body.length + 5)))) :=
        setReceiver_stays (by rw [orderEnded_profile])
      split
      · exact ended.trans ((onCounters_stays _ _ _).trans (handOrder_stays _ _))
      · exact ended.trans (onCounters_stays _ _ _)
    · exact Stays.refl s

theorem orderFrames_stays (frames : Vector (Option OrderFrame) 4) (s : State) : Stays s (orderFrames frames s) := by
  refine Stays.foldl (fun u t => ?_) trunkList s
  split
  · exact Stays.refl u
  · exact orderFrame_stays _ _ _

/-! ### Frames and signals at the tracker -/

/-- What happens at a trunk whose tracker, when it is held, leaves the idle rows idle. -/
theorem Tracked.stays {t : Trunk} {s u : State} (h : Tracked t s u)
    (hi : s.held t = true → RowsIdle t s → RowsIdle t u) : Stays s u where
  locks := h.locks
  between := .inr
    { engine := by rw [h.moves.keeps.apart.orders]
      keys := h.moves.keeps.keys
      settled := h.moves.settled
      idle := fun hs k hk idle => by
        by_cases same : t = k
        · rw [← same] at hk idle ⊢
          exact hi hk idle
        · exact idle.of_cycle fun r => h.moves.others hs.1 k r same }

/-- The delivery-ended signal does nothing at idle rows (R34). -/
theorem endDelivery_of_idle {t : Trunk} {s : State} (h : RowsIdle t s) (cause : LossCause) :
    endDelivery t cause s = s := by
  have still : ∀ r, endRow t cause s r = s := fun r => by
    cases hx : s.row t r with
    | none => exact endRow_of_vacant hx
    | some x => exact endRow_of_idle hx (h r x.cycle (by rw [hx]; rfl))
  have all : ∀ rs : List RowIx, rs.foldl (endRow t cause) s = s := fun rs => by
    induction rs with
    | nil => rfl
    | cons r rs ih => rw [List.foldl_cons, still, ih]
  exact all rowList

/-- What waits leaves the rows. -/
theorem setWaiting_idle {t : Trunk} {s : State} (w : List Waiting) (h : RowsIdle t s) : RowsIdle t (s.setWaiting t w) :=
  h.of_cycle fun r => by rw [setWaiting_row]

theorem trackerFrame_stays (t : Trunk) (words : List Word) (mark : Bool) (s : State) :
    Stays s (trackerFrame t words mark s) := by
  refine (trackerFrame_tracked t words mark s).stays fun held idle => ?_
  unfold trackerFrame
  rw [if_pos held]
  split
  · exact setWaiting_idle _ idle
  · exact idle

theorem trackerEnded_stays (t : Trunk) (s : State) : Stays s (trackerEnded t s) := by
  refine (trackerEnded_tracked t s).stays fun held idle => ?_
  unfold trackerEnded
  split
  · exact setWaiting_idle _ idle
  next unheld =>
    have empty : (s.tracker t).waiting = [] := by simpa [held] using unheld
    rw [drainWaiting_of_nil empty, endDelivery_of_idle idle]
    exact idle

theorem waitingFrame_stays (t : Trunk) (s : State) : Stays s (waitingFrame t s) := by
  refine (waitingFrame_tracked t s).stays fun held idle => ?_
  unfold waitingFrame
  rw [if_pos held]
  exact idle

theorem syncCandidate_stays (t : Trunk) (start : Nat) (bits : Window) (s : State) :
    Stays s (syncCandidate t start bits s) := by
  unfold syncCandidate
  dsimp only
  split
  · split
    · exact changeReceiver_stays (by rw [candidateStep_profile]; rfl)
    · exact setReceiver_stays rfl
  · exact Stays.refl s

theorem boundaryComparison_stays (t : Trunk) (bits : Window) (s : State) : Stays s (boundaryComparison t bits s) := by
  unfold boundaryComparison
  dsimp only
  split
  · exact Stays.refl s
  next e _ =>
    split
    · have changed : Stays s (changeReceiver t ((s.receiver t).compared e bits) s) :=
        changeReceiver_stays (by rw [compared_profile])
      split
      · exact changed.trans (trackerEnded_stays _ _)
      · exact changed
    · exact Stays.refl s

theorem markerMatch_stays (t : Trunk) (start : Nat) (bits : BitVec 32) (s : State) :
    Stays s (markerMatch t start bits s) := by
  unfold markerMatch
  dsimp only
  split
  · exact setReceiver_stays rfl
  · exact Stays.refl s

theorem minorFrame_stays (t : Trunk) (words : List Word) (s : State) : Stays s (minorFrame t words s) := by
  unfold minorFrame
  dsimp only
  split
  · exact Stays.refl s
  · split
    · refine Stays.trans ?_ (trackerFrame_stays _ _ _ _)
      exact setReceiver_stays rfl
    · exact Stays.refl s

end Sys2Proof.Machine
end

section
/-! PROOFS. What the orders on format slots, banks and sources do to ARMED standbys and probations (R67, R73, R76). -/

namespace Sys2Proof.Machine

/-! ### What keeps ARMED standbys and probations beside locked rows -/

section
variable {s u : State}

/-- Format slots that are not settled are bound to rows that are locked, and those rows stay. -/
theorem Locks.of_locked (hf : Forms s u)
    (h : s.FormatsLawful → s.ArmedLocked → ∀ f, (u.format f).settled = false →
      boundLocked f s = true ∧ ∀ t r x, s.row t r = some x → x.format = f → x.cycle = .locked →
        ∃ y, u.row t r = some y ∧ y.format = f ∧ y.cycle = .locked) : Locks s u where
  forms := hf
  locked hs ha := armedLocked_iff.mpr fun f hu => by
    obtain ⟨bound, stays⟩ := h hs ha f hu
    obtain ⟨t, r, x, hb, hx, hc⟩ := boundLocked_iff.mp bound
    obtain ⟨z, hz, hzf⟩ := boundRow_row hb
    have same : x.format = f := by
      rw [Option.some.inj (hx.symm.trans hz)]
      exact hzf
    obtain ⟨y, hy, hyf, hyc⟩ := stays t r x hx same hc
    have found := boundRow_of_row (hf hs).1.1 hy
    rw [hyf] at found
    exact boundLocked_iff.mpr ⟨t, r, y, found, hy, hyc⟩

/-- Rows that stay, and format slots that come to be unsettled beside locked rows alone. -/
theorem Locks.of_slots (hf : Forms s u) (rows : ∀ t r, u.row t r = s.row t r)
    (h : s.FormatsLawful → ∀ f, (u.format f).settled = false →
      (s.format f).settled = false ∨ boundLocked f s = true) : Locks s u :=
  Locks.of_locked hf fun hs ha f hu =>
    ⟨(h hs f hu).elim (armedLocked_iff.mp ha f) id, fun t r x hx hxf hc => ⟨x, (rows t r).trans hx, hxf, hc⟩⟩

/-- Format slots that stay, and locked rows that stay beside those that are not settled. -/
theorem Locks.of_rows (hf : Forms s u) (slots : ∀ f, u.format f = s.format f)
    (rows : ∀ t r x, s.row t r = some x → (s.format x.format).settled = false → x.cycle = .locked →
      u.row t r = some x) : Locks s u :=
  Locks.of_locked hf fun _ ha f hu => by
    rw [slots] at hu
    refine ⟨armedLocked_iff.mp ha f hu, fun t r x hx hxf hc => ⟨x, rows t r x hx ?_ hc, hxf, hc⟩⟩
    rw [hxf]
    exact hu

theorem Locks.foldl {α : Type} {step : State → α → State} (h : ∀ s a, Locks s (step s a)) (xs : List α) :
    ∀ s, Locks s (xs.foldl step s) := by
  induction xs with
  | nil => exact Locks.refl
  | cons x xs ih => exact fun s => (h s x).trans (ih _)

/-- One format slot replaced by a settled one, or by one as unsettled as it was, or beside a locked row. -/
theorem Locks.of_slot {f : Slot} {y : FormatSlot} (hf : Forms s u) (rows : ∀ t r, u.row t r = s.row t r)
    (slots : u.formats = (s.setFormat f y).formats)
    (h : s.FormatsLawful → y.settled = false → (s.format f).settled = false ∨ boundLocked f s = true) :
    Locks s u :=
  Locks.of_slots hf rows fun hs g hg => by
    have same : u.format g = (s.setFormat f y).format g := congrArg (fun v => pick v g) slots
    rw [same, setFormat_format] at hg
    split at hg
    next e =>
      rw [← e]
      exact h hs hg
    next => exact .inl hg

end

/-! ### Staging orders and DISCARD_STAGE -/

section
variable {s u : State} {f : Slot} {b : Bank}

/-- Another content in a standby bank, its state unchanged. -/
theorem setStandbyBank_locks (hf : Forms s u) (rows : ∀ t r, u.row t r = s.row t r)
    (slots : u.formats = (s.setStandbyBank f b).formats) : Locks s u :=
  Locks.of_slot hf rows slots fun _ h => .inl (by
    rw [FormatSlot.settled, FormatSlot.withStandby_standby, FormatSlot.withStandby_probation] at h
    exact h)

/-- A standby emptied is settled. -/
theorem emptyStandby_locks {st : Standby} (hp : (s.format f).isPending = false) (hst : st = .staging ∨ st = .empty) :
    Locks s (emptyStandby f st s) :=
  Locks.of_slot (emptyStandby_forms hp hst) (fun _ _ => rfl) rfl fun hs h => by
    have settled : ((s.format f).withStandby Bank.empty st).settled = true := by
      rw [FormatSlot.settled_iff, FormatSlot.withStandby_standby, FormatSlot.withStandby_probation]
      refine ⟨?_, FormatSlot.probation_none (hs.2.2.1 f) hp⟩
      rcases hst with hst | hst <;> rw [hst] <;> exact nofun
    rw [settled] at h
    cases h

/-- A standby opened is settled. -/
theorem openStaging_locks (hp : (s.format f).isPending = false) : Locks s (openStaging f s) := by
  have forms := openStaging_forms hp
  cases h : (s.format f).standby with
  | fallback =>
    rw [openStaging_of_fallback h]
    exact emptyStandby_locks hp (.inl rfl)
  | staging =>
    rw [openStaging_of_staging h]
    exact Locks.refl s
  | empty =>
    rw [openStaging_of_empty h] at forms ⊢
    refine Locks.of_slot forms (fun _ _ => rfl) rfl fun hs hu => .inl ?_
    rw [FormatSlot.settled_eq_false_iff] at hu ⊢
    exact .inr (hu.resolve_left nofun)
  | armed =>
    rw [FormatSlot.isPending_of (.inl h)] at hp
    cases hp

/-- A staging order, given what its content does to a STAGING standby. -/
theorem stagingOrder_locks {content : Slot → State → State × Status × Word}
    (h : ∀ f s, (s.format f).standby = .staging → Locks s (content f s).1) (o : QueuedOrder) (s : State) :
    Locks s (stagingOrder content o s).1 := by
  unfold stagingOrder
  split
  · exact Locks.refl s
  next f _ =>
    split
    · exact Locks.refl s
    next hp =>
      have idle : (s.format f).isPending = false := by simpa using hp
      exact (openStaging_locks idle).trans (h _ _ (openStaging_standby idle))

theorem placeHeader_locks (h : Header) (f : Slot) (s : State) (hs : (s.format f).standby = .staging) :
    Locks s (placeHeader h f s).1 := by
  have forms := placeHeader_forms h f s hs
  unfold placeHeader at forms ⊢
  split
  · exact Locks.refl s
  next hh =>
    rw [hh] at forms
    exact setStandbyBank_locks forms (fun _ _ => rfl) rfl

theorem placeSlots_locks {items : List (Option SlotEntry)} (hi : ∀ e, some e ∈ items → e.InRange) (f : Slot)
    (s : State) (hs : (s.format f).standby = .staging) : Locks s (placeSlots items f s).1 := by
  have forms := placeSlots_forms hi f s hs
  cases h : addSlots 0 (s.format f).standbyBank.slots items with
  | error x =>
    rw [placeSlots_error h]
    exact Locks.refl s
  | ok slots =>
    rw [placeSlots_ok h] at forms ⊢
    by_cases room : items.length ≤ s.freeSlots
    case neg =>
      rw [if_neg room]
      exact Locks.refl s
    case pos =>
      rw [if_pos room] at forms ⊢
      exact setStandbyBank_locks forms (fun _ _ => rfl) rfl

theorem placeParams_locks {items : List (Option ParamDef)} (hi : ∀ d, some d ∈ items → d.InRange) (f : Slot)
    (s : State) (hs : (s.format f).standby = .staging) : Locks s (placeParams items f s).1 := by
  have forms := placeParams_forms hi f s hs
  cases h : addParams 0 (s.format f).standbyBank.params items with
  | error x =>
    rw [placeParams_error h]
    exact Locks.refl s
  | ok params =>
    rw [placeParams_ok h] at forms ⊢
    by_cases room : items.length ≤ s.freeParams
    case neg =>
      rw [if_neg room]
      exact Locks.refl s
    case pos =>
      rw [if_pos room] at forms ⊢
      exact setStandbyBank_locks forms (fun _ _ => rfl) rfl

theorem discardStageOrder_locks (o : QueuedOrder) (s : State) : Locks s (discardStageOrder o s).1 := by
  unfold discardStageOrder
  split
  · exact Locks.refl s
  · unfold discardStage
    split
    · exact Locks.refl s
    next hp =>
      dsimp only
      split
      · exact Locks.refl s
      · exact emptyStandby_locks (by simpa using hp) (.inr rfl)

/-! ### COMMIT, CANCEL_COMMIT and TUNE_PARAM -/

/-- COMMIT arms beside a locked row, and a switch at once leaves the format slot settled (R67). -/
theorem commitOrder_locks (o : QueuedOrder) (s : State) : Locks s (commitOrder o s).1 := by
  have forms := commitOrder_forms o s
  obtain e | ⟨f, hs, hc, ⟨hl, e⟩ | ⟨-, e⟩⟩ := commitOrder_cases o s
  · rw [e]
    exact Locks.refl s
  · rw [e] at forms ⊢
    exact Locks.of_slot forms (fun _ _ => rfl) rfl fun _ _ => .inr hl
  · rw [e] at forms ⊢
    refine Locks.of_locked forms fun _ ha g hg => ?_
    rw [switchFormat_format] at hg
    by_cases same : f = g
    case pos =>
      rw [if_pos same, FormatSlot.switched_settled (cause := .immediate) nofun] at hg
      cases hg
    case neg =>
      rw [if_neg same] at hg
      refine ⟨armedLocked_iff.mp ha g hg, fun t r x hx hxf hxc => ⟨x, ?_, hxf, hxc⟩⟩
      have elsewhere : ¬ s.boundRow f = some (t, r) := fun hb => by
        obtain ⟨y, hy, hyf⟩ := boundRow_row hb
        rw [Option.some.inj (hx.symm.trans hy)] at hxf
        exact same (hyf.symm.trans hxf)
      rw [switchFormat_row, if_neg elsewhere, hx]

theorem cancelCommitOrder_locks (o : QueuedOrder) (s : State) : Locks s (cancelCommitOrder o s).1 := by
  have forms := cancelCommitOrder_forms o s
  obtain e | ⟨f, ha, e⟩ := cancelCommitOrder_cases o s
  · rw [e]
    exact Locks.refl s
  · rw [e] at forms ⊢
    exact Locks.of_slot forms (fun _ _ => rfl) rfl fun _ _ =>
      .inl (FormatSlot.settled_eq_false_iff.mpr (.inl ha))

theorem tuneParamOrder_locks (o : QueuedOrder) (s : State) : Locks s (tuneParamOrder o s).1 := by
  have forms := tuneParamOrder_forms o s
  obtain e | ⟨f, d, x, -, -, e⟩ := tuneParamOrder_cases o s
  · rw [e]
    exact Locks.refl s
  · rw [e] at forms ⊢
    have rows : ∀ t r, (applyTune f d (d.tuned x) s).row t r = s.row t r := fun t r => by
      rw [applyTune_frame]
      rfl
    refine Locks.of_slots forms rows fun _ g hg => .inl ?_
    rw [applyTune_format] at hg
    split at hg
    next same =>
      obtain ⟨-, standby, probation⟩ :=
        FormatSlot.setBank_state (s.format f) ((s.format f).activeBank.replaceParam (d.tuned x))
      rw [FormatSlot.settled, standby, probation] at hg
      rw [← same]
      exact hg
    next => exact hg

/-! ### BIND_SOURCE, CLEAR_COUNTERS and the channel's settings -/

/-- A vacant row filled leaves the locked rows (R22). -/
theorem bindSourceOrder_locks (o : QueuedOrder) (s : State) : Locks s (bindSourceOrder o s).1 := by
  have forms := bindSourceOrder_forms o s
  obtain e | ⟨t, r, f, e⟩ := bindSourceOrder_cases o s
  · rw [e]
    exact Locks.refl s
  rw [e] at forms ⊢
  obtain e | ⟨-, vacant, -, -, e⟩ := bindTo_cases t r f (o.arg 3) s
  · rw [e]
    exact Locks.refl s
  · rw [e] at forms ⊢
    refine Locks.of_rows forms (fun _ => rfl) fun t' r' x hx _ _ => ?_
    have elsewhere : ¬ (t = t' ∧ r = r') := fun ⟨ht, hr⟩ => by
      rw [← ht, ← hr, vacant] at hx
      cases hx
    rw [setRow_row, if_neg elsewhere, hx]

theorem clearCountersOrder_locks (o : QueuedOrder) (s : State) : Locks s (clearCountersOrder o s).1 := by
  have forms := clearCountersOrder_forms o s
  unfold clearCountersOrder at forms ⊢
  split
  · exact Locks.refl s
  next sc hs =>
    rw [hs] at forms
    cases sc with
    | part => exact Locks.of_slots forms (fun _ _ => rfl) fun _ _ h => .inl h
    | link l => exact Locks.of_slots forms (fun _ _ => rfl) fun _ _ h => .inl h
    | format f => exact Locks.of_slots forms (fun _ _ => rfl) fun _ _ h => .inl h
    | trunk t =>
      have cleared : ∀ t' r, ∃ g : Row → Row, (∀ x, (g x).format = x.format ∧ (g x).cycle = x.cycle) ∧
          (clearScope s (.trunk t)).row t' r = (s.row t' r).map g := fun t' r => by
        rw [clearScope_trunk_row]
        split
        · exact ⟨Row.cleared, fun _ => ⟨rfl, rfl⟩, rfl⟩
        · exact ⟨id, fun _ => ⟨rfl, rfl⟩, by rw [Option.map_id]; rfl⟩
      refine Locks.of_locked forms fun _ ha f hf =>
        ⟨armedLocked_iff.mp ha f hf, fun t' r x hx hxf hc => ?_⟩
      obtain ⟨g, hg, e⟩ := cleared t' r
      exact ⟨g x, by rw [e, hx]; rfl, (hg x).1.trans hxf, (hg x).2.trans hc⟩

theorem setOrderAcceptOrder_locks (o : QueuedOrder) (s : State) : Locks s (setOrderAcceptOrder o s).1 := by
  unfold setOrderAcceptOrder
  dsimp only
  split
  · exact Locks.refl s
  · split
    · exact Locks.refl s
    · exact Locks.aside rfl rfl rfl

theorem setEventsOrder_locks (o : QueuedOrder) (s : State) : Locks s (setEventsOrder o s).1 := by
  unfold setEventsOrder
  split
  · exact Locks.refl s
  · exact Locks.refl s
  · exact Locks.aside rfl rfl rfl

end

end Sys2Proof.Machine
end

section
/-! PROOFS. The orders that settle the switch control before their last effect, and RESTART; and from all of these
the obligation O57. -/

namespace Sys2Proof.Machine

/-! ### The switch control's part of an order (R71) -/

section
variable {s u : State}

theorem settleFormat_locks {cause : SwitchCause} (hc : cause ≠ .commit) (s : State) (f : Slot) :
    Locks s (settleFormat cause s f) :=
  (settleFormat_moves s f).locks (settleFormat_forms cause hc s f) fun _ _ _ _ x hb hx _ => .inr (by
    obtain ⟨y, hy, hyf⟩ := boundRow_row hb
    rw [Option.some.inj (hx.symm.trans hy), hyf]
    exact settleFormat_settled hc s f)

/-- The switch control leaves settled what is settled. -/
theorem settleFormats_keeps_settled {cause : SwitchCause} (fs : List Slot) :
    ∀ {s : State} {f : Slot}, (s.format f).settled = true →
      ((fs.foldl (settleFormat cause) s).format f).settled = true := by
  induction fs with
  | nil => exact id
  | cons g fs ih => exact fun h => ih ((settleFormat_moves _ g).settled _ h)

/-- The switch control settles each format slot it handles. -/
theorem settleFormats_settled {cause : SwitchCause} (hc : cause ≠ .commit) {f : Slot} (fs : List Slot) :
    ∀ {s : State}, f ∈ fs → ((fs.foldl (settleFormat cause) s).format f).settled = true := by
  induction fs with
  | nil => exact nofun
  | cons g fs ih =>
    intro s hf
    rcases List.mem_cons.mp hf with rfl | hf
    · exact settleFormats_keeps_settled fs (settleFormat_settled hc s f)
    · exact ih hf

/-- Some of the format slots left handled, the rest are left. -/
theorem Settles.foldl_take {cause : SwitchCause} (hc : cause ≠ .commit) {o : QueuedOrder} {left : List Slot}
    (h : Settles o left s) (n : Nat) :
    Settles o (left.drop n) ((left.take n).foldl (settleFormat cause) s) := by
  intro f hf
  rw [concernedFormats_of_keys (settleFormats_keeps cause (left.take n) s).keys] at hf
  rcases h f hf with waits | settled
  · rw [← List.take_append_drop n left, List.mem_append] at waits
    exact waits.symm.imp_right (settleFormats_settled hc (left.take n))
  · exact .inr (settleFormats_keeps_settled (left.take n) settled)

/-- All of the format slots left handled, what the order concerns is settled. -/
theorem Settles.foldl {cause : SwitchCause} (hc : cause ≠ .commit) {o : QueuedOrder} {left : List Slot}
    (h : Settles o left s) : Settles o [] (left.foldl (settleFormat cause) s) := by
  have all := h.foldl_take hc left.length
  rwa [List.take_length, List.drop_length] at all

/-- The next steps of such an order keep the laws, given what its last effect does once everything it concerns is
settled. -/
theorem runSettling_switchLawful {cause : SwitchCause} (hc : cause ≠ .commit)
    {finish : QueuedOrder → State → State × Reply} {o : QueuedOrder}
    (hf : ∀ u, Settles o [] u → Locks u (finish o u).1) {left : List Slot} (formats : s.FormatsLawful)
    (armed : s.ArmedLocked) (h : Settles o left s) (n : Nat) :
    (runSettling cause finish o n left s).SwitchLawful := by
  obtain ⟨u, hu, e⟩ | ⟨u, hu, e⟩ := runSettling_cases cause finish o n left s
  · have locks : Locks s u := by
      rw [hu]
      exact Locks.foldl (settleFormat_locks hc) (left.take n) s
    have lawful := (locks.forms formats).1
    rw [e]
    refine ⟨lawful, locks.locked formats armed, ?_⟩
    have settles := h.foldl_take hc n
    rw [← hu] at settles
    exact (stepsLawful_settling_iff rfl).mpr settles
  · have locks : Locks s u := by
      rw [hu]
      exact Locks.foldl (settleFormat_locks hc) left s
    have settles := h.foldl hc
    rw [← hu] at settles
    rw [e]
    have stays : Stays u (answer o (finish o u).2 (finish o u).1.draw) := answer_stays (hf u settles) o _
    have all := locks.trans stays.locks
    exact ⟨(all.forms formats).1, all.locked formats armed, stepsLawful_of_plain (placeReplies_plain _ _ _ _ _)⟩

/-- Carrying out such an order keeps the laws, given what its check finds and what its last effect does. -/
theorem carryOutSettling_switchLawful {n code : Nat} {cause : SwitchCause} (hc : cause ≠ .commit)
    {check : QueuedOrder → State → Except Reply (List Slot)} {finish : QueuedOrder → State → State × Reply}
    (hcheck : ∀ (o : QueuedOrder) (s : State) (fs : List Slot), o.code = code → check o s = .ok fs →
      concernedFormats o s = fs)
    (hf : ∀ (o : QueuedOrder) (u : State), o.code = code → Settles o [] u → Locks u (finish o u).1)
    (hs : s.SwitchLawful) : (carryOutSettling n code cause check finish s).SwitchLawful := by
  have kept : Stays s (carryOutSettling n code cause check finish s) →
      (carryOutSettling n code cause check finish s).SwitchLawful := fun stays => stays.switchLawful hs
  obtain ⟨formats, armed, steps⟩ := hs
  obtain e | ⟨o, rs, -, e⟩ | ⟨o, rs, -, e⟩ | ⟨o, fs, ho, hfs, e⟩ | ⟨o, left, he, hcode, e⟩ :=
    carryOutSettling_cases n code cause check finish s
  · exact kept (by rw [e]; exact Stays.refl s)
  · exact kept (by rw [e]; exact placeReplies_stays _ _ _ _ _)
  · exact kept (by rw [e]; exact answer_stays (Locks.refl s) _ _)
  · rw [e]
    refine runSettling_switchLawful hc (fun u => hf o u ho.2.1) formats armed (fun f hf => .inl ?_) n
    rw [hcheck o s fs ho.2.1 hfs] at hf
    exact List.mem_filter.mpr ⟨mem_slotList f, List.contains_iff_mem.mpr hf⟩
  · rw [e]
    exact runSettling_switchLawful hc (fun u => hf o u hcode) formats armed
      ((stepsLawful_settling_iff he).mp steps) n

/-! ### SET_TRUNK and UNBIND_SOURCE -/

/-- ARMED standbys and probations stand beside locked rows by rows and format slots alone. -/
theorem armedLocked_of_same (formats : u.formats = s.formats) (rows : ∀ t r, u.row t r = s.row t r)
    (h : s.ArmedLocked) : u.ArmedLocked := by
  refine armedLocked_iff.mpr fun f hf => ?_
  have same : u.format f = s.format f := congrArg (fun v => pick v f) formats
  rw [same] at hf
  exact boundLocked_of_cycle (fun t r => by rw [rows]) (armedLocked_iff.mp h f hf) fun t r x hx _ hc => by
    rw [rows, hx]
    exact congrArg some hc

/-- The counters of a trunk leave rows and format slots. -/
theorem onCounters_same {t : Trunk} (g : TrunkCounters → TrunkCounters) (v : State) :
    (∀ f, (v.onCounters t g).format f = v.format f) ∧ ∀ k r, (v.onCounters t g).row k r = v.row k r :=
  ⟨fun _ => rfl, fun _ _ => rfl⟩

/-- A trunk that is reinitialized before its delivery ends: the rows and format slots as what waited has left
them. -/
structure Reinited (t : Trunk) (s c : State) : Prop where
  locks : Locks s c
  keys : ∀ k r, (c.row k r).map Row.key = (s.row k r).map Row.key
  settled : ∀ f, (s.format f).settled = true → (c.format f).settled = true
  others : s.BindingsLawful → ∀ k r, t ≠ k → (c.row k r).map Row.cycle = (s.row k r).map Row.cycle

section
variable {t : Trunk} {p : Profile} (hp : s.FormatsLawful → p.tagPos = 0 → ∀ r, r ≠ 0 → s.row t r = none)
  (arrived : Nat)
include hp

/-- The delivery of a trunk ends after its receiver is reinitialized (R20). -/
theorem reinitTrunk_eq :
    ∃ c, Reinited t s c ∧
      reinitTrunk t p arrived s = (endDelivery t .order c).onCounters t (fun _ => TrunkCounters.zero) := by
  refine ⟨changeReceiver t ((((drainWaiting t s).receiver t).seen arrived).reinit p) (drainWaiting t s), ?_, rfl⟩
  have drained := drainWaiting_tracked t s
  have forms := reinitReceiver_forms (y := (((drainWaiting t s).receiver t).seen arrived).reinit p) hp rfl
  obtain ⟨formats, rows⟩ := changeReceiver_same t ((((drainWaiting t s).receiver t).seen arrived).reinit p)
    (drainWaiting t s)
  generalize changeReceiver t ((((drainWaiting t s).receiver t).seen arrived).reinit p) (drainWaiting t s) = c
    at forms formats rows ⊢
  exact
    { locks := ⟨forms, fun hs ha => armedLocked_of_same formats rows (drained.locks.locked hs ha)⟩
      keys := fun k r => by
        rw [rows]
        exact drained.moves.keeps.keys k r
      settled := fun f h => by
        have same : c.format f = (drainWaiting t s).format f := congrArg (fun v => pick v f) formats
        rw [same]
        exact drained.moves.settled f h
      others := fun hb k r hk => by
        rw [rows]
        exact drained.moves.others hb k r hk }

/-- A trunk reinitialized, the format slots of its rows settled before (R19, R34). -/
theorem reinitTrunk_locks (hs : ∀ r x, s.row t r = some x → (s.format x.format).settled = true) :
    Locks s (reinitTrunk t p arrived s) := by
  obtain ⟨c, reinited, e⟩ := reinitTrunk_eq hp arrived
  rw [e]
  have ended : Locks c (endDelivery t .order c) :=
    (endDelivery_moves t .order c).locks (endDelivery_forms t .order c) fun _ _ k r x hk hx _ => .inr (by
      have key := reinited.keys k r
      rw [hx, Option.map_some, eq_comm, Option.map_eq_some_iff] at key
      obtain ⟨y, hy, hyk⟩ := key
      have format : y.format = x.format := congrArg Prod.fst hyk
      rw [← (hk : t = k)] at hy
      rw [← format]
      exact (endDelivery_moves t .order c).settled _ (reinited.settled _ (hs r y hy)))
  exact (reinited.locks.trans ended).trans (onCounters_stays t _ _).locks

/-- A trunk reinitialized leaves settled what is settled. -/
theorem reinitTrunk_settled {f : Slot} (h : (s.format f).settled = true) :
    ((reinitTrunk t p arrived s).format f).settled = true := by
  obtain ⟨c, reinited, e⟩ := reinitTrunk_eq hp arrived
  rw [e, (onCounters_same _ _).1]
  exact (endDelivery_moves t .order c).settled f (reinited.settled f h)

/-- A trunk reinitialized leaves the cycle states of the other trunks. -/
theorem reinitTrunk_others (hs : s.FormatsLawful) {k : Trunk} (hk : t ≠ k) (r : RowIx) :
    ((reinitTrunk t p arrived s).row k r).map Row.cycle = (s.row k r).map Row.cycle := by
  obtain ⟨c, reinited, e⟩ := reinitTrunk_eq hp arrived
  rw [e, (onCounters_same _ _).2]
  exact ((endDelivery_moves t .order c).others (reinited.locks.forms hs).1.1 k r hk).trans
    (reinited.others hs.1 k r hk)

/-- The rows of a reinitialized trunk are idle (R34). -/
theorem reinitTrunk_idle (hs : s.FormatsLawful) : RowsIdle t (reinitTrunk t p arrived s) := by
  obtain ⟨c, reinited, e⟩ := reinitTrunk_eq hp arrived
  rw [e]
  intro r k hk
  have row := endDelivery_row t .order (reinited.locks.forms hs).1.1 r
  rw [(onCounters_same _ _).2, row, Option.map_map] at hk
  obtain ⟨x, -, rfl⟩ := Option.map_eq_some_iff.mp hk
  simp only [Function.comp, Row.ended]
  cases hx : x.cycle with
  | locked => exact .inl rfl
  | check => exact .inl rfl
  | search => exact .inl hx
  | unformatted => exact .inr hx

end

/-- The last effect of SET_TRUNK, its formats settled (R161). -/
theorem setTrunkFinish_locks (arrived : Nat) {o : QueuedOrder} (hc : o.code = 0x01) (h : Settles o [] u) :
    Locks u (setTrunkFinish arrived o u).1 := by
  obtain e | ⟨t, ht, e⟩ := setTrunkFinish_cases arrived o u <;> rw [e]
  · exact Locks.refl u
  · obtain ⟨-, trunk, untagged⟩ := setTrunkTarget_ok.mp ht
    refine reinitTrunk_locks (fun _ => untaggedFailure_eq_none untagged) arrived fun r x hx => ?_
    have concerned : x.format ∈ concernedFormats o u := by
      have other : ¬ o.code = 0x03 := by
        rw [hc]
        decide
      simp only [concernedFormats, if_neg other, trunk]
      exact mem_formatsOnTrunk.mpr ⟨r, x, hx, rfl⟩
    exact (h x.format concerned).resolve_left nofun

/-- The last effect of UNBIND_SOURCE, its format settled (R23). -/
theorem unbindFinish_locks {o : QueuedOrder} (hc : o.code = 0x03) (h : Settles o [] u) :
    Locks u (unbindFinish o u).1 := by
  have forms := unbindFinish_forms o u
  obtain e | ⟨t, r, x, ht, e⟩ := unbindFinish_cases o u <;> rw [e] at forms ⊢
  · exact Locks.refl u
  · obtain ⟨-, -, hx⟩ := unbindTarget_ok.mp ht
    have concerned : x.format ∈ concernedFormats o u := by
      simp only [concernedFormats, if_pos hc, unbindCheck, ht]
      exact List.mem_singleton.mpr rfl
    have settled := (h x.format concerned).resolve_left nofun
    refine Locks.of_rows forms (fun _ => rfl) fun t' r' y hy hu _ => ?_
    have elsewhere : ¬ (t = t' ∧ r = r') := fun ⟨htt, hrr⟩ => by
      rw [← htt, ← hrr] at hy
      rw [← Option.some.inj (hx.symm.trans hy), settled] at hu
      cases hu
    rw [setRow_row, if_neg elsewhere]
    exact hy

/-- What the check of SET_TRUNK finds. -/
theorem setTrunkCheck_ok {o : QueuedOrder} {fs : List Slot} (hc : o.code = 0x01) (h : setTrunkCheck o s = .ok fs) :
    concernedFormats o s = fs := by
  have other : ¬ o.code = 0x03 := by
    rw [hc]
    decide
  unfold setTrunkCheck at h
  split at h
  · cases h
  next t ht =>
    split at h
    · cases h
    · cases h
      simp only [concernedFormats, if_neg other, (setTrunkTarget_ok.mp ht).2.1]

/-- What the check of UNBIND_SOURCE finds. -/
theorem unbindCheck_ok {o : QueuedOrder} {fs : List Slot} (hc : o.code = 0x03) (h : unbindCheck o s = .ok fs) :
    concernedFormats o s = fs := by
  simp only [concernedFormats, if_pos hc, h]

/-! ### RESTART (R174, R175) -/

/-- The switch control's step is the first. -/
theorem switchControl_first :
    ∀ left ∈ restartSteps.tails, left.head? ≠ some .switchControl → .switchControl ∉ left := by
  decide

/-- After the switch control's step every trunk is left. -/
theorem trunks_after_switchControl :
    ∀ left ∈ restartSteps.tails, left.head? = some .switchControl → ∀ t : Trunk, .trunk t ∈ left.tail := by
  decide

/-- The rows are set once. -/
theorem rows_once : ∀ left ∈ restartSteps.tails, left.head? = some .rows → .rows ∉ left.tail := by
  decide

variable {x : RestartStep} {rest : List RestartStep}

/-- The steps after one of RESTART's are its last. -/
theorem Restarts.last_tail (h : Restarts (x :: rest) s) : rest ∈ restartSteps.tails :=
  (List.mem_tails _ _).mpr ((List.suffix_cons x rest).trans ((List.mem_tails _ _).mp h.last))

/-- After the switch control's step every format slot is settled. -/
theorem Restarts.all_settled (h : Restarts (x :: rest) s) (hx : x ≠ .switchControl) (f : Slot) :
    (s.format f).settled = true := by
  have made := switchControl_first _ h.last (by
    rw [List.head?_cons]
    exact fun e => hx (Option.some.inj e))
  exact h.settled.resolve_left made f

/-- A step that neither reinitializes a trunk nor changes rows or format slots. -/
theorem Restarts.step_same (h : Restarts (x :: rest) s) (hx : x ≠ .switchControl) (ht : ∀ t, x ≠ .trunk t)
    (formats : u.formats = s.formats) (rows : ∀ t r, u.row t r = s.row t r) : Restarts rest u where
  last := h.last_tail
  settled := .inr fun f => by
    have same : u.format f = s.format f := congrArg (fun v => pick v f) formats
    rw [same]
    exact h.all_settled hx f
  idle t hr hn :=
    (h.idle t (List.mem_cons_of_mem x hr) fun hm => (List.mem_cons.mp hm).elim (fun e => ht t e.symm) hn).of_cycle
      fun r => by rw [rows]

/-- The switch control's step settles every format slot: one that is not settled is bound (R71). -/
theorem restartSwitches_settled (ha : s.ArmedLocked) (f : Slot) : ((restartSwitches s).format f).settled = true := by
  by_cases settled : (s.format f).settled = true
  case pos => exact settleFormats_keeps_settled _ settled
  case neg =>
    have locked := armedLocked_iff.mp ha f (Bool.eq_false_iff.mpr settled)
    obtain ⟨t, r, x, hb, -, -⟩ := boundLocked_iff.mp locked
    exact settleFormats_settled (cause := .order) nofun _ (List.mem_filter.mpr ⟨mem_slotList f, by rw [hb]; rfl⟩)

/-- New runtimes leave rows and format slots. -/
theorem restartRuntimes_same (s : State) :
    (restartRuntimes s).receivers = s.receivers ∧ (restartRuntimes s).trackers = s.trackers ∧
      (restartRuntimes s).formats = s.formats := by
  have all : ∀ (fs : List Slot) (u : State),
      (fs.foldl (fun x f => x.setRuntimes f (freshRuntimes (x.activeBank f))) u).receivers = u.receivers ∧
      (fs.foldl (fun x f => x.setRuntimes f (freshRuntimes (x.activeBank f))) u).trackers = u.trackers ∧
      (fs.foldl (fun x f => x.setRuntimes f (freshRuntimes (x.activeBank f))) u).formats = u.formats := fun fs => by
    induction fs with
    | nil => exact fun _ => ⟨rfl, rfl, rfl⟩
    | cons f fs ih => exact fun u => ih _
  exact all slotList s

/-- One step of RESTART. -/
theorem restartStep_restarts (arrived : Vector Nat 4) (formats : s.FormatsLawful) (armed : s.ArmedLocked)
    (h : Restarts (x :: rest) s) :
    Locks s (restartStep arrived s x) ∧ Restarts rest (restartStep arrived s x) := by
  have forms := restartStep_forms arrived s x
  cases x with
  | switchControl =>
    refine ⟨Locks.foldl (settleFormat_locks (cause := .order) nofun) _ s,
      { last := h.last_tail
        settled := .inr (restartSwitches_settled armed)
        idle := fun t _ hn => absurd (trunks_after_switchControl _ h.last rfl t) hn }⟩
  | trunk t =>
    have untagged : s.FormatsLawful → (s.receiver t).profile.tagPos = 0 → ∀ r, r ≠ 0 → s.row t r = none :=
      fun hs h0 r hr => hs.1.2.1 t r h0 hr
    have settled := h.all_settled nofun
    refine ⟨reinitTrunk_locks untagged _ fun r y _ => settled y.format,
      { last := h.last_tail
        settled := .inr fun f => reinitTrunk_settled untagged _ (settled f)
        idle := fun k hr hn => ?_ }⟩
    by_cases same : t = k
    · rw [← same]
      exact reinitTrunk_idle untagged _ formats
    · have before := h.idle k (List.mem_cons_of_mem _ hr) fun hm =>
        (List.mem_cons.mp hm).elim (fun e => same (RestartStep.trunk.inj e).symm) hn
      exact before.of_cycle fun r => reinitTrunk_others untagged _ formats same r
  | evaluation =>
    obtain ⟨receivers, trackers, slots⟩ := restartRuntimes_same s
    exact ⟨Locks.aside receivers trackers slots,
      h.step_same nofun nofun slots fun t r => by rw [State.row, State.tracker, restartStep, trackers]; rfl⟩
  | link l =>
    by_cases one : l = 1
    · have step : restartStep arrived s (.link l) =
          (s.setLink l (s.link l).restart).setEvents
            { (s.setLink l (s.link l).restart).events with lost := 0 } := if_pos one
      rw [step]
      exact ⟨Locks.aside rfl rfl rfl, h.step_same nofun nofun rfl fun _ _ => rfl⟩
    · have step : restartStep arrived s (.link l) = s.setLink l (s.link l).restart := if_neg one
      rw [step]
      exact ⟨Locks.aside rfl rfl rfl, h.step_same nofun nofun rfl fun _ _ => rfl⟩
  | rows =>
    have settled := h.all_settled nofun
    refine ⟨Locks.of_locked forms fun _ _ f hf => ?_,
      { last := h.last_tail
        settled := .inr settled
        idle := fun t hr _ => absurd hr (rows_once _ h.last rfl) }⟩
    rw [show (restartStep arrived s .rows).format f = s.format f from rfl, settled f] at hf
    cases hf
  | reply => exact ⟨Locks.refl s, h.step_same nofun nofun rfl fun _ _ => rfl⟩

/-- The next steps of RESTART keep the laws (R174, R175). -/
theorem runRestart_switchLawful (o : QueuedOrder) (arrived : Vector Nat 4) (left : List RestartStep) :
    ∀ {n : Nat} {s : State}, s.FormatsLawful → s.ArmedLocked → Restarts left s → left ≠ [] →
      (runRestart o arrived n left s).SwitchLawful := by
  induction left with
  | nil => exact fun _ _ _ h => absurd rfl h
  | cons x rest ih =>
    intro n s formats armed h more
    cases n with
    | zero => exact ⟨formats, armed, (stepsLawful_restarting_iff rfl).mpr ⟨⟨h.last, h.settled, h.idle⟩, more⟩⟩
    | succ n =>
      obtain ⟨locks, next⟩ := restartStep_restarts arrived formats armed h
      have lawful := (locks.forms formats).1
      have locked := locks.locked formats armed
      cases rest with
      | nil =>
        have stays : Stays (restartStep arrived s x) (runRestart o arrived (n + 1) [x] s) :=
          placeReplies_stays _ _ _ _ _
        exact ⟨(stays.locks.forms lawful).1, stays.locks.locked lawful locked,
          stepsLawful_of_plain (placeReplies_plain _ _ _ _ _)⟩
      | cons y ys => exact ih lawful locked next nofun

/-- RESTART keeps the laws. -/
theorem restartOrder_switchLawful (n : Nat) (arrived : Vector Nat 4) (hs : s.SwitchLawful) :
    (restartOrder n arrived s).SwitchLawful := by
  obtain ⟨formats, armed, steps⟩ := hs
  cases he : s.orders.engine with
  | executing o =>
    have run : restartOrder n arrived s = takeUp 0x3F (fun o u => runRestart o arrived n restartSteps u) s := by
      simp only [restartOrder, he]
    rw [run]
    obtain e | ⟨o', rs, -, e⟩ | ⟨o', -, e⟩ :=
      takeUp_cases 0x3F (fun o u => runRestart o arrived n restartSteps u) s
    · rw [e]
      exact ⟨formats, armed, steps⟩
    · rw [e]
      exact (placeReplies_stays o' _ _ rs s).switchLawful ⟨formats, armed, steps⟩
    · rw [e]
      have every : ∀ t : Trunk, RestartStep.trunk t ∈ restartSteps := by decide
      refine runRestart_switchLawful o' arrived restartSteps formats armed
        { last := (List.mem_tails _ _).mpr (List.suffix_refl _)
          settled := .inl (by decide)
          idle := fun t _ hn => absurd (every t) hn } nofun
  | restarting o left =>
    rw [restartOrder_left he]
    obtain ⟨restarts, more⟩ := (stepsLawful_restarting_iff he).mp steps
    exact runRestart_switchLawful o arrived left formats armed restarts more
  | idle => simp only [restartOrder, he]; exact ⟨formats, armed, steps⟩
  | settling o left => simp only [restartOrder, he]; exact ⟨formats, armed, steps⟩
  | placing o next rest => simp only [restartOrder, he]; exact ⟨formats, armed, steps⟩
  | replying o held rest => simp only [restartOrder, he]; exact ⟨formats, armed, steps⟩

end

/-! ### The step -/

/-- After power-on reset no format slot is armed and no order is in execution. -/
theorem released_switchLawful (ready0 ready1 : Bool) (s : State) : (releasedState ready0 ready1 s).SwitchLawful := by
  refine ⟨(released_formats ready0 ready1 s).1, armedLocked_iff.mpr fun f hf => ?_, stepsLawful_of_plain rfl⟩
  rw [released_format] at hf
  cases hf

/-- Every command keeps the laws of the switch control. -/
theorem exec_switchLawful {c : Instr} {s u : State} (hs : s.SwitchLawful) (h : exec c s = .next u) :
    u.SwitchLawful := by
  cases c <;> cases h
  case powerOnReset ready0 ready1 => exact released_switchLawful ready0 ready1 s
  case syncCandidateMatch t start bits => exact (syncCandidate_stays t start bits s).switchLawful hs
  case expectedBoundaryComparison t bits => exact (boundaryComparison_stays t bits s).switchLawful hs
  case orderMarkerMatch t start bits => exact (markerMatch_stays t start bits s).switchLawful hs
  case orderFrameReceived t header control body check others => exact (orderFrames_stays _ s).switchLawful hs
  case minorFrameDelivered t words => exact (minorFrame_stays t words s).switchLawful hs
  case waitingFrameProcessed t => exact (waitingFrame_stays t s).switchLawful hs
  case linkUp l => exact (linkUp_stays l s).switchLawful hs
  case linkDown l => exact (linkDown_stays l s).switchLawful hs
  case creditReturn l => exact (setLink_stays l _ s).switchLawful hs
  case stallTimerExpiry l => exact (expireTimer_stays l s).switchLawful hs
  case recordSent l => exact (recordSent_stays l s).switchLawful hs
  case roomNotice records => exact (takeNotice_stays records s).switchLawful hs
  case unknownOrder => exact (unknownOrder_stays s).switchLawful hs
  case echo => exact (carryOut_stays (fun _ s => Locks.refl s) s).switchLawful hs
  case setTrunk arrived steps =>
    exact carryOutSettling_switchLawful (cause := .order) nofun (fun _ _ _ => setTrunkCheck_ok)
      (fun _ _ => setTrunkFinish_locks arrived) hs
  case bindSource => exact (carryOut_stays bindSourceOrder_locks s).switchLawful hs
  case unbindSource steps =>
    exact carryOutSettling_switchLawful (cause := .unbind) nofun (fun _ _ _ => unbindCheck_ok)
      (fun _ _ => unbindFinish_locks) hs
  case stageHeader => exact (carryOut_stays (fun o => stagingOrder_locks (placeHeader_locks _) o) s).switchLawful hs
  case stageSlots =>
    exact (carryOut_stays (fun o => stagingOrder_locks (placeSlots_locks (slotItems_inRange _)) o) s).switchLawful hs
  case stageParams =>
    exact (carryOut_stays (fun o => stagingOrder_locks (placeParams_locks (paramItems_inRange _)) o) s).switchLawful hs
  case discardStage => exact (carryOut_stays discardStageOrder_locks s).switchLawful hs
  case commit => exact (carryOut_stays commitOrder_locks s).switchLawful hs
  case cancelCommit => exact (carryOut_stays cancelCommitOrder_locks s).switchLawful hs
  case tuneParam => exact (carryOut_stays tuneParamOrder_locks s).switchLawful hs
  case readParam =>
    exact (carryOut_stays (fun o s => (readParamOrder_state o s).symm ▸ Locks.refl s) s).switchLawful hs
  case readBank records => exact (carryOutUpTo_stays readBankOrder_state s).switchLawful hs
  case readStatus records => exact (carryOutUpTo_stays readStatusOrder_state s).switchLawful hs
  case clearCounters => exact (carryOut_stays clearCountersOrder_locks s).switchLawful hs
  case setOrderAccept => exact (carryOut_stays setOrderAcceptOrder_locks s).switchLawful hs
  case setEvents => exact (carryOut_stays setEventsOrder_locks s).switchLawful hs
  case restart steps arrived => exact restartOrder_switchLawful steps arrived hs

/-- Settles O57: time passes aside from the switch control, and every command keeps its laws. -/
theorem stepKeepsSwitchLawful : Obligations.StepKeepsSwitchLawful := by
  unfold Obligations.StepKeepsSwitchLawful
  intro s u hs h
  unfold step at h
  split at h
  · cases h
    exact (passUnit_stays s).switchLawful hs
  next c rest _ =>
    have front : Stays s { s with pending := rest } := Stays.aside rfl rfl rfl (.inl rfl)
    exact exec_switchLawful (front.switchLawful hs) h

end Sys2Proof.Machine
end
